-- ==== Sys2Proof/Word.lean ====
section
/-!
DEFINITION. The plain types of the block `DEC`: bytes, instruction words, program-counter values, register
indices and texts (spec/00_scope.md R7, R10, R11; spec/42_renderer.md R166).
-/
namespace Sys2Proof

/-- One byte of the input span (10_state R28: `4 x 8 bits`). -/
abbrev Byte := BitVec 8

/-- An instruction word, 32 bits, bit 0 least significant (00_scope R7, R10). -/
abbrev Word := BitVec 32

/-- A program-counter value, 64 bits unsigned (00_scope R7, 10_state R25). -/
abbrev Addr := BitVec 64

/-- A register index, 0 to 31 (00_scope R7, 41_field_decoder R121). -/
abbrev RegIdx := BitVec 5

/-- A text: its characters in order, no terminator (42_renderer R166). -/
abbrev Text := List Char

/-- The text of a string literal. -/
abbrev txt (s : String) : Text := s.toList

end Sys2Proof
end

