-- ==== Sys2Proof/Syntax.lean ====
section
/-!
DEFINITION. The syntax of `DEC`: encoding shapes, quirk flags, table rows, the Decoded Instruction Record, and the
instruction type, one constructor per row of spec/opcode_table.json.
-/
namespace Sys2Proof

/-- The Encoding Shape: a closed set of 12 variants plus the `UNKNOWN` sentinel (30_encoding R61). -/
inductive Shape where
  | rr | rrr | ffff | rri6 | rri8 | rri12 | rri6i6 | rri14 | rri16 | aui20 | ri21 | i25 | unknown
  deriving DecidableEq, Repr

/-- The names of the eight render quirk flags, in the source's order of listing (30_encoding R85). -/
inductive QuirkFlag where
  | hex | jump | minus32 | shl2 | fprD | fprJ | fprK | ldst
  deriving DecidableEq, Repr

/-- The Render Quirk Bitset: eight independent flags, combinable (30_encoding R85; D4 asks for a record of eight
booleans). -/
structure Quirks where
  /-- bit 0: print the immediate as hexadecimal -/
  hex : Bool := false
  /-- bit 1: the immediate is a pc-relative jump offset -/
  jump : Bool := false
  /-- bit 2: subtract 32 from the immediate -/
  minus32 : Bool := false
  /-- bit 3: multiply the immediate by 4 -/
  shl2 : Bool := false
  /-- bit 4: the destination register is a floating-point register -/
  fprD : Bool := false
  /-- bit 5: source 1 is a floating-point register -/
  fprJ : Bool := false
  /-- bit 6: source 2 is a floating-point register -/
  fprK : Bool := false
  /-- bit 7: the operand is a memory reference, `offset(base)` -/
  ldst : Bool := false
  deriving DecidableEq, Repr

/-- The empty quirk bitset. -/
def Quirks.none : Quirks := {}

/-- One row of the Instruction Table (30_encoding R84). -/
structure Row where
  /-- the mnemonic, kept verbatim, a leading `!` included -/
  mnemonic : Text
  /-- the encoding shape -/
  shape : Shape
  /-- the row's `match`, 32 bits -/
  matchBits : Word
  /-- the row's `mask`, 32 bits -/
  mask : Word
  /-- the row's render quirk bitset -/
  quirks : Quirks
  deriving DecidableEq, Repr

/-- The sentinel row: `mask = 0`, `match = 0`, shape `UNKNOWN`, no quirk, no mnemonic of its own
(30_encoding R87; 43_table_rows R184). -/
def Row.sentinel : Row :=
  { mnemonic := [], shape := .unknown, matchBits := 0, mask := 0, quirks := Quirks.none }

/-- The Decoded Instruction Record: a tagged union keyed by the encoding shape (41_field_decoder R120, R124 to
R136). The selector is absent where no bit is left for it; `unknown` carries only the raw word. -/
inductive Record where
  | rr (opcode : BitVec 6) (selector : BitVec 16) (rj rd : RegIdx)
  | rrr (opcode : BitVec 6) (selector : BitVec 11) (rk rj rd : RegIdx)
  | ffff (opcode : BitVec 6) (selector : BitVec 6) (ra rk rj rd : RegIdx)
  | rri6 (opcode : BitVec 6) (selector : BitVec 10) (imm : BitVec 6) (rj rd : RegIdx)
  | rri8 (opcode : BitVec 6) (selector : BitVec 8) (imm : BitVec 8) (rj rd : RegIdx)
  | rri12 (opcode : BitVec 6) (selector : BitVec 4) (imm : BitVec 12) (rj rd : RegIdx)
  | rri6i6 (opcode : BitVec 6) (selector : BitVec 4) (immB immA : BitVec 6) (rj rd : RegIdx)
  | rri14 (opcode : BitVec 6) (selector : BitVec 2) (imm : BitVec 14) (rj rd : RegIdx)
  | rri16 (opcode : BitVec 6) (imm : BitVec 16) (rj rd : RegIdx)
  | aui20 (opcode : BitVec 6) (selector : BitVec 1) (imm : BitVec 20) (rd : RegIdx)
  | ri21 (opcode : BitVec 6) (imm : BitVec 21) (rj : RegIdx)
  | i25 (opcode : BitVec 6) (imm : BitVec 25)
  | unknown (raw : Word)
  deriving DecidableEq, Repr

/-- What an instruction keeps of the row that recognised its word: the row's number (40_matcher R100; D27), its
mnemonic and its quirks. -/
structure RowRef where
  idx : Nat
  mnemonic : Text
  quirks : Quirks
  deriving DecidableEq, Repr

/-- The instructions: a word together with the row MATCH gave for it, one constructor per row of
spec/opcode_table.json. The first thirteen are the generic rows, one per shape; `add`, `lw`, `j`, `slliw` are the
rows the source shows (43_table_rows R180 to R183), recognised by mnemonic, shape and the quirks their rule settles;
`sentinel` is row R184. `ignored` is bit 9 of an I25 word, which belongs to no field of the record (30_encoding R75):
it is kept here only so that an instruction names its word exactly. -/
inductive Instr where
  | rr (row : RowRef) (opcode : BitVec 6) (selector : BitVec 16) (rj rd : RegIdx)
  | rrr (row : RowRef) (opcode : BitVec 6) (selector : BitVec 11) (rk rj rd : RegIdx)
  | ffff (row : RowRef) (opcode : BitVec 6) (selector : BitVec 6) (ra rk rj rd : RegIdx)
  | rri6 (row : RowRef) (opcode : BitVec 6) (selector : BitVec 10) (imm : BitVec 6) (rj rd : RegIdx)
  | rri8 (row : RowRef) (opcode : BitVec 6) (selector : BitVec 8) (imm : BitVec 8) (rj rd : RegIdx)
  | rri12 (row : RowRef) (opcode : BitVec 6) (selector : BitVec 4) (imm : BitVec 12) (rj rd : RegIdx)
  | rri6i6 (row : RowRef) (opcode : BitVec 6) (selector : BitVec 4) (immB immA : BitVec 6) (rj rd : RegIdx)
  | rri14 (row : RowRef) (opcode : BitVec 6) (selector : BitVec 2) (imm : BitVec 14) (rj rd : RegIdx)
  | rri16 (row : RowRef) (opcode : BitVec 6) (imm : BitVec 16) (rj rd : RegIdx)
  | aui20 (row : RowRef) (opcode : BitVec 6) (selector : BitVec 1) (imm : BitVec 20) (rd : RegIdx)
  | ri21 (row : RowRef) (opcode : BitVec 6) (imm : BitVec 21) (rj : RegIdx)
  | i25 (row : RowRef) (opcode : BitVec 6) (imm : BitVec 25) (ignored : BitVec 1)
  | unknown (row : RowRef) (raw : Word)
  | add (idx : Nat) (quirks : Quirks) (opcode : BitVec 6) (selector : BitVec 11) (rk rj rd : RegIdx)
  | lw (idx : Nat) (quirks : Quirks) (opcode : BitVec 6) (selector : BitVec 4) (imm : BitVec 12) (rj rd : RegIdx)
  | j (idx : Nat) (quirks : Quirks) (opcode : BitVec 6) (imm : BitVec 25) (ignored : BitVec 1)
  | slliw (idx : Nat) (quirks : Quirks) (opcode : BitVec 6) (selector : BitVec 10) (imm : BitVec 6) (rj rd : RegIdx)
  | sentinel (idx : Nat) (raw : Word)
  deriving DecidableEq, Repr

end Sys2Proof
end

