-- ==== Sys2Proof/Config.lean ====
section
/-!
DEFINITION. The constants of one instance of `DEC` (spec/00_scope.md R8; spec/10_state.md R20, R21) as a type, and the
values of them that the model names for `State.reset`. A statement over all states is a statement over all values of
the constants; nothing may be claimed of the repository xen0n/r2-loongarch from the values below.
-/
namespace Sys2Proof

/-- The constants of one instance (00_scope R8). `itable` holds the `N_ROWS` rows in declared order and then the
sentinel; the name tables have 32 entries each; `cap` counts characters. -/
structure Constants where
  itable : List Row
  gprName : Vector Text 32
  fprName : Vector Text 32
  cap : Nat
  deriving DecidableEq, Repr

/-- `N_ROWS`: the number of rows before the sentinel (00_scope R8). -/
def Constants.nRows (c : Constants) : Nat := c.itable.length - 1

namespace Config

/-- `INSUFFICIENT`, the value of `consumed` on insufficient input: negative, `-1` (00_scope R8; D18). -/
def insufficient : Int := -1

/-- The default general-purpose names (10_state R23): entries 0 to 4 are the source's, the rest the spec's default
(D5; assumption log 2). -/
def gprName : Vector Text 32 := #v[
  txt "zero", txt "ra", txt "r2", txt "sp", txt "a0", txt "r5", txt "r6", txt "r7",
  txt "r8", txt "r9", txt "r10", txt "r11", txt "r12", txt "r13", txt "r14", txt "r15",
  txt "r16", txt "r17", txt "r18", txt "r19", txt "r20", txt "r21", txt "r22", txt "r23",
  txt "r24", txt "r25", txt "r26", txt "r27", txt "r28", txt "r29", txt "r30", txt "r31"]

/-- The default floating-point names (10_state R23; D5; assumption log 2). -/
def fprName : Vector Text 32 := #v[
  txt "f0", txt "f1", txt "f2", txt "f3", txt "f4", txt "f5", txt "f6", txt "f7",
  txt "f8", txt "f9", txt "f10", txt "f11", txt "f12", txt "f13", txt "f14", txt "f15",
  txt "f16", txt "f17", txt "f18", txt "f19", txt "f20", txt "f21", txt "f22", txt "f23",
  txt "f24", txt "f25", txt "f26", txt "f27", txt "f28", txt "f29", txt "f30", txt "f31"]

/-- The five general-purpose names the source states (10_state R23). -/
def pinnedNames : List Text := [txt "zero", txt "ra", txt "r2", txt "sp", txt "a0"]

/-- The rows of `TV_TABLE` before the sentinel (95_test_vectors section 2). DESIGN CHOICE (assumption log 1): this is
the spec's own instantiation of the open parameter ITABLE, not the table of xen0n/r2-loongarch. -/
def tvRows : List Row := [
  ⟨txt "ret", .rri16, 0x4C000020, 0xFFFFFFFF, {}⟩,
  ⟨txt "jirl", .rri16, 0x4C000000, 0xFC000000, {}⟩,
  ⟨txt "add", .rrr, 0x00108000, 0xFFFF8000, {}⟩,
  ⟨txt "slliw", .rri6, 0x00408000, 0xFFFF8000, { minus32 := true }⟩,
  ⟨txt "slli", .rri6, 0x00410000, 0xFFFF0000, {}⟩,
  ⟨txt "bstrw", .rri6i6, 0x00608000, 0xFFE08000, { minus32 := true }⟩,
  ⟨txt "mv.f", .rr, 0x01149400, 0xFFFFFC00, { fprD := true, fprJ := true }⟩,
  ⟨txt "cvt.fx", .rr, 0x0114A400, 0xFFFFFC00, { fprD := true }⟩,
  ⟨txt "fadd", .rrr, 0x01008000, 0xFFFF8000, { fprD := true, fprJ := true, fprK := true }⟩,
  ⟨txt "!fsel", .ffff, 0x0D000000, 0xFFF00000, { fprD := true, fprJ := true, fprK := true }⟩,
  ⟨txt "fmadd", .ffff, 0x08100000, 0xFFF00000, { fprD := true, fprJ := true, fprK := true }⟩,
  ⟨txt "i8op", .rri8, 0x0C000000, 0xFFFC0000, {}⟩,
  ⟨txt "addi", .rri12, 0x02800000, 0xFFC00000, {}⟩,
  ⟨txt "ori", .rri12, 0x03800000, 0xFFC00000, { hex := true }⟩,
  ⟨txt "lw", .rri12, 0x28800000, 0xFFC00000, { ldst := true }⟩,
  ⟨txt "sw", .rri12, 0x29800000, 0xFFC00000, { ldst := true }⟩,
  ⟨txt "flw", .rri12, 0x2B000000, 0xFFC00000, { ldst := true, fprD := true }⟩,
  ⟨txt "ldptr", .rri14, 0x24000000, 0xFF000000, { ldst := true, shl2 := true }⟩,
  ⟨txt "lu12i", .aui20, 0x14000000, 0xFE000000, {}⟩,
  ⟨txt "pcaddu", .aui20, 0x1C000000, 0xFE000000, { hex := true }⟩,
  ⟨txt "beqz", .ri21, 0x40000000, 0xFC000000, { jump := true }⟩,
  ⟨txt "!bfpt", .ri21, 0x48000000, 0xFC000000, { jump := true, fprJ := true }⟩,
  ⟨txt "beq", .rri16, 0x58000000, 0xFC000000, { jump := true }⟩,
  ⟨txt "j", .i25, 0x50000000, 0xFC000000, { jump := true }⟩,
  ⟨txt "lui16", .rri16, 0x10000000, 0xFC000000, {}⟩]

/-- `TV_TABLE`: its 25 rows and the sentinel (95_test_vectors section 2). -/
def tvTable : List Row := tvRows ++ [Row.sentinel]

/-- The capacity the spec's vectors use, 64 characters (95_test_vectors, opening). DESIGN CHOICE (assumption log 3). -/
def cap : Nat := 64

/-- The constants of the instance that `State.reset` holds. -/
def constants : Constants := { itable := tvTable, gprName := gprName, fprName := fprName, cap := cap }

end Config
end Sys2Proof
end

