-- ==== Sys2Proof/Machine/Flags.lean ====
section
/-!
DEFINITION. The render quirk flags (spec/30_encoding.md R85; spec/42_renderer.md R150): `DEC` has no status flag of
any kind (spec/10_state.md R32), so this file holds the quirk bitset's codes, the shape codes, which flag acts on
which shape, and the quirks that the shown table rows settle (spec/43_table_rows.md R180 to R183).
-/
namespace Sys2Proof

/-- The 4-bit shape code of the port `shape`, in the source's order of listing (30_encoding R61). -/
def Shape.code : Shape → BitVec 4
  | .rr => 0
  | .rrr => 1
  | .ffff => 2
  | .rri6 => 3
  | .rri8 => 4
  | .rri12 => 5
  | .rri6i6 => 6
  | .rri14 => 7
  | .rri16 => 8
  | .aui20 => 9
  | .ri21 => 10
  | .i25 => 11
  | .unknown => 12

/-- All thirteen shapes. -/
def Shape.all : List Shape :=
  [.rr, .rrr, .ffff, .rri6, .rri8, .rri12, .rri6i6, .rri14, .rri16, .aui20, .ri21, .i25, .unknown]

/-- All eight quirk flags, bit 0 first (30_encoding R85). -/
def QuirkFlag.all : List QuirkFlag := [.hex, .jump, .minus32, .shl2, .fprD, .fprJ, .fprK, .ldst]

/-- The bit number of a flag in the port `quirks` (30_encoding R85). -/
def QuirkFlag.bit : QuirkFlag → Nat
  | .hex => 0
  | .jump => 1
  | .minus32 => 2
  | .shl2 => 3
  | .fprD => 4
  | .fprJ => 5
  | .fprK => 6
  | .ldst => 7

/-- Whether a flag is in the bitset. -/
def Quirks.has (q : Quirks) : QuirkFlag → Bool
  | .hex => q.hex
  | .jump => q.jump
  | .minus32 => q.minus32
  | .shl2 => q.shl2
  | .fprD => q.fprD
  | .fprJ => q.fprJ
  | .fprK => q.fprK
  | .ldst => q.ldst

/-- The bitset with one flag put to a value. -/
def Quirks.put (q : Quirks) (f : QuirkFlag) (v : Bool) : Quirks :=
  match f with
  | .hex => { q with hex := v }
  | .jump => { q with jump := v }
  | .minus32 => { q with minus32 := v }
  | .shl2 => { q with shl2 := v }
  | .fprD => { q with fprD := v }
  | .fprJ => { q with fprJ := v }
  | .fprK => { q with fprK := v }
  | .ldst => { q with ldst := v }

/-- The 8-bit code of the port `quirks`: flag `HEX` is bit 0, `LDST` bit 7 (30_encoding R85). -/
def Quirks.code (q : Quirks) : BitVec 8 :=
  BitVec.ofBool q.ldst ++ BitVec.ofBool q.fprK ++ BitVec.ofBool q.fprJ ++ BitVec.ofBool q.fprD ++
    BitVec.ofBool q.shl2 ++ BitVec.ofBool q.minus32 ++ BitVec.ofBool q.jump ++ BitVec.ofBool q.hex

/-- The table of 42_renderer R150: whether a flag acts on a shape. A flag that does not is ignored. -/
def Shape.honours : Shape → QuirkFlag → Bool
  | .rr, f => f == .fprD || f == .fprJ
  | .rrr, f => f == .fprD || f == .fprJ || f == .fprK
  | .ffff, f => f == .fprD || f == .fprJ || f == .fprK
  | .rri6, f => f == .hex || f == .minus32 || f == .shl2 || f == .fprD || f == .fprJ
  | .rri8, f => f == .hex || f == .minus32 || f == .shl2 || f == .fprD || f == .fprJ
  | .rri12, f => f == .hex || f == .minus32 || f == .shl2 || f == .fprD || f == .fprJ || f == .ldst
  | .rri6i6, f => f == .hex || f == .minus32 || f == .shl2 || f == .fprD || f == .fprJ
  | .rri14, f => f == .hex || f == .minus32 || f == .shl2 || f == .fprD || f == .fprJ || f == .ldst
  | .rri16, f => f == .hex || f == .jump || f == .minus32 || f == .shl2 || f == .fprD || f == .fprJ
  | .aui20, f => f == .hex || f == .minus32 || f == .shl2 || f == .fprD
  | .ri21, f => f == .hex || f == .jump || f == .minus32 || f == .shl2 || f == .fprJ
  | .i25, f => f == .hex || f == .jump || f == .minus32 || f == .shl2
  | .unknown, _ => false

/-- The quirks 43_table_rows R180 settles of row `add`: the register-file flags are clear (the immediate flags have
no effect on its shape). -/
def Quirks.fitsAdd (q : Quirks) : Bool := !q.fprD && !q.fprJ && !q.fprK

/-- The quirks 43_table_rows R181 settles of row `lw`: `LDST` set; `FPR_D`, `FPR_J`, `HEX`, `MINUS32`, `SHL2`
clear. -/
def Quirks.fitsLw (q : Quirks) : Bool :=
  q.ldst && !q.fprD && !q.fprJ && !q.hex && !q.minus32 && !q.shl2

/-- The quirks 43_table_rows R182 settles of row `j`: `JUMP` set; `SHL2`, `MINUS32` clear. -/
def Quirks.fitsJ (q : Quirks) : Bool := q.jump && !q.shl2 && !q.minus32

/-- The quirks 43_table_rows R183 settles of row `slliw`: `MINUS32` set; `HEX`, `SHL2` clear; the register-file
flags are open. -/
def Quirks.fitsSlliw (q : Quirks) : Bool := q.minus32 && !q.hex && !q.shl2

/-- The row is row `add` of R180 as far as mnemonic and quirks tell. -/
def RowRef.isAdd (r : RowRef) : Bool := r.mnemonic == txt "add" && r.quirks.fitsAdd

/-- The row is row `lw` of R181 as far as mnemonic and quirks tell. -/
def RowRef.isLw (r : RowRef) : Bool := r.mnemonic == txt "lw" && r.quirks.fitsLw

/-- The row is row `j` of R182 as far as mnemonic and quirks tell. -/
def RowRef.isJ (r : RowRef) : Bool := r.mnemonic == txt "j" && r.quirks.fitsJ

/-- The row is row `slliw` of R183 as far as mnemonic and quirks tell. -/
def RowRef.isSlliw (r : RowRef) : Bool := r.mnemonic == txt "slliw" && r.quirks.fitsSlliw

/-- A combination of quirks that the source calls untested and asks to flag when a table is loaded: `MINUS32` with
`SHL2` (93_implementation_defined U3; 70_reset_and_hazards R228). Not a run-time output. -/
def Row.untestedCombination (r : Row) : Bool := r.quirks.minus32 && r.quirks.shl2

end Sys2Proof
end

