-- ==== Sys2Proof/Machine/Admit.lean ====
section
/-!
DEFINITION. Which values of the constants are admitted parameter values (spec/00_scope.md R8, R9; spec/10_state.md R23,
R24; spec/70_reset_and_hazards.md R222), and the checks a candidate of the repository's own table may be put to
(spec/43_table_rows.md R180 to R185).
-/
namespace Sys2Proof

/-- One-byte printable ASCII (42_renderer R166; D20). -/
def charPrintable (c : Char) : Bool := 0x20 ≤ c.toNat && c.toNat ≤ 0x7E

/-- Every character of the text is printable ASCII. -/
def textPrintable (t : Text) : Bool := t.all charPrintable

/-- A row's `match` bits lie within its mask: `match & ~mask == 0` (00_scope R9 (b); 30_encoding R86). -/
def Row.maskOk (r : Row) : Bool := r.matchBits &&& ~~~r.mask == 0

/-- A mnemonic of a row before the sentinel: a non-empty text (00_scope R9 (d)) of printable ASCII (42_renderer
R166; D20). -/
def mnemonicOk (m : Text) : Bool := !m.isEmpty && textPrintable m

/-- A row admitted before the sentinel (00_scope R9 (a), (b), (d)). -/
def Row.admitted (r : Row) : Bool := r.shape != .unknown && r.maskOk && mnemonicOk r.mnemonic

/-- A table admitted as ITABLE: admitted rows, then the sentinel as the last row (00_scope R9; R87). The rows may
overlap (93 U7) and their masks need not be the opcode and selector bits of their shape (D26). -/
def tableAdmitted : List Row → Bool
  | [] => false
  | [r] => r == Row.sentinel
  | r :: r' :: rs => r.admitted && tableAdmitted (r' :: rs)

/-- A register name: non-empty printable ASCII without a comma, a space or a parenthesis (10_state R24; D20). -/
def nameOk (t : Text) : Bool :=
  !t.isEmpty && t.all fun c => charPrintable c && c != ',' && c != ' ' && c != '(' && c != ')'

/-- Both name tables are admitted, the five pinned general-purpose names included (00_scope R8; 10_state R23,
R24). That each has 32 entries (70_reset_and_hazards R222) is in the type. -/
def Constants.namesAdmitted (c : Constants) : Bool :=
  c.gprName.toList.all nameOk && c.fprName.toList.all nameOk && c.gprName.toList.take 5 == Config.pinnedNames

/-- All that must be in place before the first evaluation (70_reset_and_hazards R222). -/
def Constants.admitted (c : Constants) : Bool :=
  tableAdmitted c.itable && c.namesAdmitted && decide (1 ≤ c.cap)

/-- Row `i` of the table can never be returned by MATCH because row `k < i` matches every word it matches: the mask
of `k` lies within the mask of `i` and they agree on it (40_matcher R102; 70_reset_and_hazards R226). Not checked by
`DEC`. -/
def Row.shadows (k i : Row) : Bool := k.mask &&& ~~~i.mask == 0 && i.matchBits &&& k.mask == k.matchBits

/-- Some row of the table is row `add` of R180: its shape, its quirks, and it satisfies
`(0x00108020 & mask) == match`. -/
def hasAddRow (t : List Row) : Bool :=
  t.any fun r => r.mnemonic == txt "add" && r.shape == .rrr && r.quirks.fitsAdd &&
    0x00108020#32 &&& r.mask == r.matchBits

/-- Some row of the table is row `lw` of R181. -/
def hasLwRow (t : List Row) : Bool := t.any fun r => r.mnemonic == txt "lw" && r.shape == .rri12 && r.quirks.fitsLw

/-- Some row of the table is row `j` of R182. -/
def hasJRow (t : List Row) : Bool := t.any fun r => r.mnemonic == txt "j" && r.shape == .i25 && r.quirks.fitsJ

/-- Some row of the table is row `slliw` of R183. -/
def hasSlliwRow (t : List Row) : Bool :=
  t.any fun r => r.mnemonic == txt "slliw" && r.shape == .rri6 && r.quirks.fitsSlliw

/-- (a) of R185: some row of shape `RRI6I6` has `MINUS32` set and no other flag that concerns an immediate. -/
def hasBiasedTwoImmediateRow (t : List Row) : Bool :=
  t.any fun r => r.shape == .rri6i6 && r.quirks.minus32 && !r.quirks.hex && !r.quirks.shl2 &&
    !r.quirks.jump && !r.quirks.ldst

/-- (b) of R185: no row sets both `MINUS32` and `SHL2`. -/
def noUntestedCombination (t : List Row) : Bool := t.all fun r => !r.untestedCombination

/-- (c) of R185: some mnemonic begins with `!`. -/
def hasProvisionalMnemonic (t : List Row) : Bool := t.any fun r => r.mnemonic.head? == some '!'

/-- The flags of which R185 (d) says that rows using them presumably exist. -/
def presumedFlags : List QuirkFlag := [.shl2, .hex, .fprD, .fprJ, .fprK]

/-- The shapes of which R185 (d) says that rows using them presumably exist. -/
def presumedShapes : List Shape := [.rr, .ffff, .rri8, .rri14, .rri16, .aui20, .ri21]

/-- A row uses a flag: it sets it, and its shape honours it (42_renderer R150; assumption log 16). -/
def Row.uses (r : Row) (f : QuirkFlag) : Bool := r.quirks.has f && r.shape.honours f

/-- (d) of R185: some row uses each of the flags, and some row has each of the shapes, that the source defines without
showing a row. The rule only presumes it (assumption log 16). -/
def usesPresumed (t : List Row) : Bool :=
  (presumedFlags.all fun f => t.any fun r => r.uses f) && presumedShapes.all fun sh => t.any fun r => r.shape == sh

/-- The constraints a candidate of the repository's table may be checked against (43_table_rows R180 to R185): it is
admitted, it holds the four shown rows, and (a) to (d) of R185 hold. It is no part of `tableAdmitted`: `DEC` evaluates
tables that fail it. -/
def candidateTable (t : List Row) : Bool :=
  tableAdmitted t && hasAddRow t && hasLwRow t && hasJRow t && hasSlliwRow t && hasBiasedTwoImmediateRow t &&
    noUntestedCombination t && hasProvisionalMnemonic t && usesPresumed t

end Sys2Proof
end

