-- ==== Sys2Proof/WellFormed.lean ====
section
/-!
DEFINITION. Well-formed instructions: the row an instruction belongs to could stand in an admitted table
(spec/00_scope.md R9 (d); spec/42_renderer.md R166), and each word has one reading, a row that spec/43_table_rows.md
R180 to R183 settles being written by its own constructor. Field widths are in the types.
-/
namespace Sys2Proof

/-- The row's mnemonic is one a table row may hold (00_scope R9 (d); D20). -/
def RowRef.wf (r : RowRef) : Bool := mnemonicOk r.mnemonic

/-- Well-formedness of an instruction. A generic constructor does not stand for a shown row; a shown row has the
quirks its rule settles. -/
def Instr.wf : Instr → Bool
  | .rr row _ _ _ _ => row.wf
  | .rrr row _ _ _ _ _ => row.wf && !row.isAdd
  | .ffff row _ _ _ _ _ _ => row.wf
  | .rri6 row _ _ _ _ _ => row.wf && !row.isSlliw
  | .rri8 row _ _ _ _ _ => row.wf
  | .rri12 row _ _ _ _ _ => row.wf && !row.isLw
  | .rri6i6 row _ _ _ _ _ _ => row.wf
  | .rri14 row _ _ _ _ _ => row.wf
  | .rri16 row _ _ _ _ => row.wf
  | .aui20 row _ _ _ _ => row.wf
  | .ri21 row _ _ _ => row.wf
  | .i25 row _ _ _ => row.wf && !row.isJ
  | .unknown row _ => row.wf
  | .add _ quirks _ _ _ _ _ => quirks.fitsAdd
  | .lw _ quirks _ _ _ _ _ => quirks.fitsLw
  | .j _ quirks _ _ _ => quirks.fitsJ
  | .slliw _ quirks _ _ _ _ _ => quirks.fitsSlliw
  | .sentinel _ _ => true

end Sys2Proof
end

