-- ==== Sys2Proof/Decode.lean ====
section
/-!
DEFINITION. From bytes to an instruction: the word (spec/20_memory.md R42), MATCH (spec/40_matcher.md R100), DECODE
(spec/41_field_decoder.md R120 to R136); and the encoder, which puts every field back at its place.
-/
namespace Sys2Proof

/-! ## The word -/

/-- The instruction word of four bytes, lowest address first, little-endian: `b0 | b1<<8 | b2<<16 | b3<<24`
(20_memory R42). -/
def assembleWord (b0 b1 b2 b3 : Byte) : Word :=
  b0.setWidth 32 ||| b1.setWidth 32 <<< 8 ||| b2.setWidth 32 <<< 16 ||| b3.setWidth 32 <<< 24

/-- Byte `k` of a word in little-endian order: `w[8k+7:8k]` (20_memory R42). -/
def byteOf (w : Word) (k : Nat) : Byte := w.extractLsb' (8 * k) 8

/-- The four bytes of a word, lowest address first (20_memory R42). -/
def wordBytes (w : Word) : List Byte := [byteOf w 0, byteOf w 1, byteOf w 2, byteOf w 3]

/-! ## MATCH -/

/-- The matching predicate of a row: `(w & mask) == match` (30_encoding R86). -/
def Row.recognises (r : Row) (w : Word) : Bool := w &&& r.mask == r.matchBits

/-- The scan of the rows in declared order, the first of them numbered `i`. -/
def matchFrom (i : Nat) : List Row → Word → Option (Nat × Row)
  | [], _ => none
  | r :: rs, w => if r.recognises w then some (i, r) else matchFrom (i + 1) rs w

/-- `MATCH(word)`: the number of the first row that recognises the word, and that row (40_matcher R100). It is never
`none` for an admitted table (R101). -/
def matchWord (t : List Row) (w : Word) : Option (Nat × Row) := matchFrom 0 t w

/-! ## DECODE -/

/-- The primary opcode `w[31:26]` (30_encoding R62; 41_field_decoder R122). -/
def opcodeOf (w : Word) : BitVec 6 := w.extractLsb' 26 6

/-- `rd = w[4:0]` (30_encoding R62). -/
def rdOf (w : Word) : RegIdx := w.extractLsb' 0 5

/-- `rj = w[9:5]` (30_encoding R62). -/
def rjOf (w : Word) : RegIdx := w.extractLsb' 5 5

/-- `rk = w[14:10]` (30_encoding R62). -/
def rkOf (w : Word) : RegIdx := w.extractLsb' 10 5

/-- `ra = w[19:15]` (30_encoding R62). -/
def raOf (w : Word) : RegIdx := w.extractLsb' 15 5

/-- Bit 9 of the word, in no field of an I25 word (30_encoding R75). -/
def bit9Of (w : Word) : BitVec 1 := w.extractLsb' 9 1

/-- A split immediate of `n` bits, high part first: `(high << 16) | low` (30_encoding R82). -/
def splitImm {k : Nat} (n : Nat) (high : BitVec k) (low : BitVec 16) : BitVec n :=
  high.setWidth n <<< 16 ||| low.setWidth n

/-- `DECODE(w, shape)`: the record of the word under the shape, one arm per shape (41_field_decoder R124 to R136).
The split immediates are assembled high part first (30_encoding R82). -/
def decodeFields (w : Word) : Shape → Record
  | .rr => .rr (opcodeOf w) (w.extractLsb' 10 16) (rjOf w) (rdOf w)
  | .rrr => .rrr (opcodeOf w) (w.extractLsb' 15 11) (rkOf w) (rjOf w) (rdOf w)
  | .ffff => .ffff (opcodeOf w) (w.extractLsb' 20 6) (raOf w) (rkOf w) (rjOf w) (rdOf w)
  | .rri6 => .rri6 (opcodeOf w) (w.extractLsb' 16 10) (w.extractLsb' 10 6) (rjOf w) (rdOf w)
  | .rri8 => .rri8 (opcodeOf w) (w.extractLsb' 18 8) (w.extractLsb' 10 8) (rjOf w) (rdOf w)
  | .rri12 => .rri12 (opcodeOf w) (w.extractLsb' 22 4) (w.extractLsb' 10 12) (rjOf w) (rdOf w)
  | .rri6i6 =>
    .rri6i6 (opcodeOf w) (w.extractLsb' 22 4) (w.extractLsb' 16 6) (w.extractLsb' 10 6) (rjOf w) (rdOf w)
  | .rri14 => .rri14 (opcodeOf w) (w.extractLsb' 24 2) (w.extractLsb' 10 14) (rjOf w) (rdOf w)
  | .rri16 => .rri16 (opcodeOf w) (w.extractLsb' 10 16) (rjOf w) (rdOf w)
  | .aui20 => .aui20 (opcodeOf w) (w.extractLsb' 25 1) (w.extractLsb' 5 20) (rdOf w)
  | .ri21 => .ri21 (opcodeOf w) (splitImm 21 (w.extractLsb' 0 5) (w.extractLsb' 10 16)) (rjOf w)
  | .i25 => .i25 (opcodeOf w) (splitImm 25 (w.extractLsb' 0 9) (w.extractLsb' 10 16))
  | .unknown => .unknown w

/-- The tag of a record (41_field_decoder R120). -/
def Record.shape : Record → Shape
  | .rr .. => .rr
  | .rrr .. => .rrr
  | .ffff .. => .ffff
  | .rri6 .. => .rri6
  | .rri8 .. => .rri8
  | .rri12 .. => .rri12
  | .rri6i6 .. => .rri6i6
  | .rri14 .. => .rri14
  | .rri16 .. => .rri16
  | .aui20 .. => .aui20
  | .ri21 .. => .ri21
  | .i25 .. => .i25
  | .unknown .. => .unknown

/-! ## The instruction -/

/-- What an instruction keeps of its row. -/
def Row.ref (row : Row) (idx : Nat) : RowRef := ⟨idx, row.mnemonic, row.quirks⟩

/-- The instruction of a word `w` that row number `idx` of the table recognises first: the record DECODE gives under
the row's shape (41_field_decoder R120), under the constructor of the row. A row with a shown row's mnemonic, shape and
settled quirks is that row (43_table_rows R180 to R183); the sentinel is R184. The choice of the constructor changes no
output. -/
def Instr.ofRow (idx : Nat) (row : Row) (w : Word) : Instr :=
  match decodeFields w row.shape with
  | .rr opcode selector rj rd => .rr (row.ref idx) opcode selector rj rd
  | .rrr opcode selector rk rj rd =>
    if (row.ref idx).isAdd then .add idx row.quirks opcode selector rk rj rd
    else .rrr (row.ref idx) opcode selector rk rj rd
  | .ffff opcode selector ra rk rj rd => .ffff (row.ref idx) opcode selector ra rk rj rd
  | .rri6 opcode selector imm rj rd =>
    if (row.ref idx).isSlliw then .slliw idx row.quirks opcode selector imm rj rd
    else .rri6 (row.ref idx) opcode selector imm rj rd
  | .rri8 opcode selector imm rj rd => .rri8 (row.ref idx) opcode selector imm rj rd
  | .rri12 opcode selector imm rj rd =>
    if (row.ref idx).isLw then .lw idx row.quirks opcode selector imm rj rd
    else .rri12 (row.ref idx) opcode selector imm rj rd
  | .rri6i6 opcode selector immB immA rj rd => .rri6i6 (row.ref idx) opcode selector immB immA rj rd
  | .rri14 opcode selector imm rj rd => .rri14 (row.ref idx) opcode selector imm rj rd
  | .rri16 opcode imm rj rd => .rri16 (row.ref idx) opcode imm rj rd
  | .aui20 opcode selector imm rd => .aui20 (row.ref idx) opcode selector imm rd
  | .ri21 opcode imm rj => .ri21 (row.ref idx) opcode imm rj
  | .i25 opcode imm =>
    if (row.ref idx).isJ then .j idx row.quirks opcode imm (bit9Of w)
    else .i25 (row.ref idx) opcode imm (bit9Of w)
  | .unknown raw => if row = Row.sentinel then .sentinel idx raw else .unknown (row.ref idx) raw

/-- Why a span of bytes gives no instruction. -/
inductive Reject where
  /-- Fewer than four bytes: the insufficient-input condition (60_exceptions R191), which the machine reports on its
  output ports. -/
  | insufficientInput
  /-- No row of the table recognises the word: impossible with a sentinel row (40_matcher R101), so only for a list of
  rows that is not admitted as ITABLE. -/
  | noRowMatches
  deriving DecidableEq, Repr

/-- The decoder: the length check first, then the word of the first four bytes, MATCH and DECODE (00_scope R14).
Bytes beyond the fourth are not looked at (20_memory R41). -/
def decode (t : List Row) : List Byte → Except Reject Instr
  | b0 :: b1 :: b2 :: b3 :: _ =>
    match matchWord t (assembleWord b0 b1 b2 b3) with
    | some (idx, row) => .ok (Instr.ofRow idx row (assembleWord b0 b1 b2 b3))
    | none => .error .noRowMatches
  | _ => .error .insufficientInput

/-- The instruction that the decoder reads, under the table of `State.reset`, from the word whose bits are `w`, bit 0
being bit 0 of the instruction word. -/
def decodeTableWord (nbits w : Nat) : Option Instr :=
  match decode Config.tvTable (wordBytes (BitVec.ofNat 32 (w % 2 ^ nbits))) with
  | .ok i => some i
  | .error _ => none

/-! ## The encoder -/

/-- The row an instruction belongs to: for a shown row its mnemonic is the one of its rule (43_table_rows R180 to
R183); the sentinel has no mnemonic and no quirk (R184). -/
def Instr.ref : Instr → RowRef
  | .rr row .. => row
  | .rrr row .. => row
  | .ffff row .. => row
  | .rri6 row .. => row
  | .rri8 row .. => row
  | .rri12 row .. => row
  | .rri6i6 row .. => row
  | .rri14 row .. => row
  | .rri16 row .. => row
  | .aui20 row .. => row
  | .ri21 row .. => row
  | .i25 row .. => row
  | .unknown row .. => row
  | .add idx quirks .. => ⟨idx, txt "add", quirks⟩
  | .lw idx quirks .. => ⟨idx, txt "lw", quirks⟩
  | .j idx quirks .. => ⟨idx, txt "j", quirks⟩
  | .slliw idx quirks .. => ⟨idx, txt "slliw", quirks⟩
  | .sentinel idx .. => ⟨idx, [], Quirks.none⟩

/-- The Decoded Instruction Record of an instruction (41_field_decoder R124 to R136). -/
def Instr.record : Instr → Record
  | .rr _ opcode selector rj rd => .rr opcode selector rj rd
  | .rrr _ opcode selector rk rj rd => .rrr opcode selector rk rj rd
  | .ffff _ opcode selector ra rk rj rd => .ffff opcode selector ra rk rj rd
  | .rri6 _ opcode selector imm rj rd => .rri6 opcode selector imm rj rd
  | .rri8 _ opcode selector imm rj rd => .rri8 opcode selector imm rj rd
  | .rri12 _ opcode selector imm rj rd => .rri12 opcode selector imm rj rd
  | .rri6i6 _ opcode selector immB immA rj rd => .rri6i6 opcode selector immB immA rj rd
  | .rri14 _ opcode selector imm rj rd => .rri14 opcode selector imm rj rd
  | .rri16 _ opcode imm rj rd => .rri16 opcode imm rj rd
  | .aui20 _ opcode selector imm rd => .aui20 opcode selector imm rd
  | .ri21 _ opcode imm rj => .ri21 opcode imm rj
  | .i25 _ opcode imm _ => .i25 opcode imm
  | .unknown _ raw => .unknown raw
  | .add _ _ opcode selector rk rj rd => .rrr opcode selector rk rj rd
  | .lw _ _ opcode selector imm rj rd => .rri12 opcode selector imm rj rd
  | .j _ _ opcode imm _ => .i25 opcode imm
  | .slliw _ _ opcode selector imm rj rd => .rri6 opcode selector imm rj rd
  | .sentinel _ raw => .unknown raw

/-- The encoding shape of an instruction. -/
def Instr.shape (i : Instr) : Shape := i.record.shape

/-- Bit 9 of the word where the shape puts it in no field (30_encoding R75); 0 for every other shape. -/
def Instr.ignored : Instr → BitVec 1
  | .i25 _ _ _ ignored => ignored
  | .j _ _ _ _ ignored => ignored
  | _ => 0

/-- A field put at bit `at_` of a word, every other bit 0. -/
def place {k : Nat} (field : BitVec k) (at_ : Nat) : Word := field.setWidth 32 <<< at_

/-- The word of a record: every field put back at its position (30_encoding R64 to R76; 41_field_decoder R138), in the
order of the rule's table, from bit 31 down. `bit9` fills the one bit of an I25 word that belongs to no field. -/
def Record.word (bit9 : BitVec 1) : Record → Word
  | .rr opcode selector rj rd => place opcode 26 ||| place selector 10 ||| place rj 5 ||| place rd 0
  | .rrr opcode selector rk rj rd =>
    place opcode 26 ||| place selector 15 ||| place rk 10 ||| place rj 5 ||| place rd 0
  | .ffff opcode selector ra rk rj rd =>
    place opcode 26 ||| place selector 20 ||| place ra 15 ||| place rk 10 ||| place rj 5 ||| place rd 0
  | .rri6 opcode selector imm rj rd =>
    place opcode 26 ||| place selector 16 ||| place imm 10 ||| place rj 5 ||| place rd 0
  | .rri8 opcode selector imm rj rd =>
    place opcode 26 ||| place selector 18 ||| place imm 10 ||| place rj 5 ||| place rd 0
  | .rri12 opcode selector imm rj rd =>
    place opcode 26 ||| place selector 22 ||| place imm 10 ||| place rj 5 ||| place rd 0
  | .rri6i6 opcode selector immB immA rj rd =>
    place opcode 26 ||| place selector 22 ||| place immB 16 ||| place immA 10 ||| place rj 5 ||| place rd 0
  | .rri14 opcode selector imm rj rd =>
    place opcode 26 ||| place selector 24 ||| place imm 10 ||| place rj 5 ||| place rd 0
  | .rri16 opcode imm rj rd => place opcode 26 ||| place imm 10 ||| place rj 5 ||| place rd 0
  | .aui20 opcode selector imm rd => place opcode 26 ||| place selector 25 ||| place imm 5 ||| place rd 0
  | .ri21 opcode imm rj =>
    place opcode 26 ||| place (imm.extractLsb' 0 16) 10 ||| place rj 5 ||| place (imm.extractLsb' 16 5) 0
  | .i25 opcode imm =>
    place opcode 26 ||| place (imm.extractLsb' 0 16) 10 ||| place bit9 9 ||| place (imm.extractLsb' 16 9) 0
  | .unknown raw => raw

/-- `encode`: the word of an instruction. -/
def encode (i : Instr) : Word := i.record.word i.ignored

/-- Whether the table reads the instruction's word as this instruction: MATCH gives its row, with its number, shape,
mnemonic and quirks, and gives the sentinel row for `sentinel` alone. -/
def Instr.placedIn (t : List Row) (i : Instr) : Bool :=
  match matchWord t (encode i) with
  | none => false
  | some (idx, row) =>
    row.ref idx == i.ref && row.shape == i.shape &&
      (match i with
        | .sentinel _ _ => row == Row.sentinel
        | _ => row != Row.sentinel)

end Sys2Proof
end

