-- ==== Sys2Proof/Machine/State.lean ====
section
/-!
DEFINITION. The state of the machine: the three classes of named values of spec/10_state.md R20 (constants, inputs of
one evaluation, outputs of one evaluation), the stop reasons, and the state after reset.
-/
namespace Sys2Proof.Machine

/-- The input ports of one evaluation (10_state R28), driven by the host. Bytes at positions `>= inLen` are
don't-care. -/
structure Inputs where
  /-- `in_bytes[0]`, the byte at `pc` -/
  b0 : Byte
  /-- `in_bytes[1]` -/
  b1 : Byte
  /-- `in_bytes[2]` -/
  b2 : Byte
  /-- `in_bytes[3]` -/
  b3 : Byte
  /-- `in_len`: how many bytes the host has available at `pc` -/
  inLen : Nat
  /-- `pc`: the address of the word being decoded (10_state R25) -/
  pc : Addr
  deriving DecidableEq, Repr

/-- The output ports of one evaluation (10_state R29). A port without a value (a don't-care of R29, or the mnemonic of
the sentinel, which has none, 30_encoding R87) is `none`. -/
structure Outputs where
  /-- `4`, or the negative `INSUFFICIENT` -/
  consumed : Int
  /-- number of the matched row; `N_ROWS` is the sentinel -/
  idx : Option Nat
  /-- shape of the matched row; its 4-bit code is `Shape.code` -/
  shape : Option Shape
  /-- quirk bitset of the matched row; its 8-bit code is `Quirks.code` -/
  quirks : Option Quirks
  /-- mnemonic of the matched row -/
  mnemonic : Option Text
  /-- port `rec`, the Decoded Instruction Record -/
  record : Option Record
  /-- the rendering, truncated -/
  text : Text
  /-- port `text_len` -/
  textLen : Nat
  deriving DecidableEq, Repr

/-- The whole state. `consts` are the parameters of the instance: the spec makes them parameters of the step function
(10_state R21); the interface gives `step` the state alone, so they stand in it and no step changes them (assumption
log 7). `DEC` holds nothing else (10_state R20, R22, R25, R32 to R35). -/
structure State where
  consts : Constants
  inp : Inputs
  out : Outputs
  deriving DecidableEq, Repr

/-- The faults of the machine: none. "Every outcome of an evaluation is a value on the output ports" (60_exceptions
R190, R194), so no instruction raises one and this type has no constructor. -/
inductive Fault where
  deriving DecidableEq, Repr

/-- Why a step has no meaning. No instruction's meaning answers with one of these: `step` does, before it looks at the
inputs, when the constants are not admitted parameter values. -/
inductive Refusal where
  /-- An instruction that exec does not model yet; raised by an arm of `exec`. Safe. No arm raises it. -/
  | notModelled (mnemonic : String)
  /-- ITABLE is not admitted (00_scope R9, D23: "a model refuses such a table"); raised by `step`. Safe: the hardware
  would scan the table. -/
  | tableNotAdmitted
  /-- A register-name table is not admitted (00_scope R8; 10_state R23, R24; D20); raised by `step`. Safe. -/
  | namesNotAdmitted
  /-- `CAP` is 0 (00_scope R8, D19: `CAP >= 1`); raised by `step`. Safe. -/
  | capacityZero
  /-- No row of the table recognises the word; raised by `step`, and impossible with an admitted table (40_matcher
  R101). Safe. -/
  | noRowMatches
  deriving DecidableEq, Repr

/-- The machine right after reset (10_state R36; 70_reset_and_hazards R220). Reset changes no constant, and the spec
gives inputs and outputs no reset value: the constants are those of `Config.constants` (assumption log 1, 2, 3), the
host has presented no byte (log 4), and the output ports are what they are for that input (log 5). -/
def State.reset : State :=
  { consts := Config.constants
    inp := { b0 := 0, b1 := 0, b2 := 0, b3 := 0, inLen := 0, pc := 0 }
    out := { consumed := Config.insufficient, idx := none, shape := none, quirks := none, mnemonic := none
             record := none, text := [], textLen := 0 } }

end Sys2Proof.Machine
end

