-- ==== Sys2Proof/Machine/Ops.lean ====
section
/-!
DEFINITION. The named operations on the machine's ports: what the decoder sees of the input ports, putting the result of
an evaluation on the output ports, the insufficient-input condition, and which constants are refused. `DEC` takes no
exception and returns from none (spec/60_exceptions.md R190, R201, R202): the insufficient-input condition is the one
outcome that is not a decoding, and it is a value on the ports.
-/
namespace Sys2Proof.Machine

/-- The result every evaluation of a span too short gives: nothing but `consumed`, the empty text and its length
(60_exceptions R191). -/
def Outputs.insufficient : Outputs :=
  { consumed := Config.insufficient, idx := none, shape := none, quirks := none, mnemonic := none
    record := none, text := [], textLen := 0 }

/-- The bytes the decoder is given: those of the first four positions that the host has, so none at a position
`>= in_len` (10_state R28; 20_memory R41). -/
def Inputs.span (x : Inputs) : List Byte := [x.b0, x.b1, x.b2, x.b3].take x.inLen

/-- The state with its output ports set; constants and inputs stay. -/
def State.setOut (s : State) (o : Outputs) : State := { s with out := o }

/-- The outputs for a word whose matched row is `ref`: 4 bytes consumed (40_matcher R104), the row on its ports, the
record, and the first `CAP` characters of the full text with their number (42_renderer R170). -/
def Outputs.decoded (cap : Nat) (ref : RowRef) (mnemonic : Option Text) (rec : Record) (full : Text) : Outputs :=
  { consumed := 4, idx := some ref.idx, shape := some rec.shape, quirks := some ref.quirks, mnemonic := mnemonic
    record := some rec, text := full.take cap, textLen := min cap full.length }

/-- An evaluation reports a decoded word. -/
def State.report (s : State) (ref : RowRef) (mnemonic : Option Text) (rec : Record) (full : Text) : State :=
  s.setOut (Outputs.decoded s.consts.cap ref mnemonic rec full)

/-- An evaluation reports insufficient input (60_exceptions R191). -/
def State.signalInsufficient (s : State) : State := s.setOut Outputs.insufficient

/-- What the machine decodes: the bytes on its input ports, under its table. -/
def State.fetch (s : State) : Except Reject Instr := decode s.consts.itable s.inp.span

/-- Which refusal the constants of the instance call for, if any (00_scope R9; 70_reset_and_hazards R222). -/
def State.refusal? (s : State) : Option Refusal :=
  if !tableAdmitted s.consts.itable then some .tableNotAdmitted
  else if !s.consts.namesAdmitted then some .namesNotAdmitted
  else if s.consts.cap = 0 then some .capacityZero
  else none

/-- What a step answers when the bytes give no instruction. -/
def State.rejected (s : State) : Reject → Host.Outcome State Fault Refusal
  | .insufficientInput => .next s.signalInsufficient
  | .noRowMatches => .refused .noRowMatches

/-- The host presents a span of bytes at a program-counter value: it drives `in_bytes` with the first four bytes it
has, `in_len` with the length and `pc` (10_state R28). Positions beyond the span are don't-care and driven 0. -/
def State.present (s : State) (span : List Byte) (pc : Addr) : State :=
  { s with inp := { b0 := span.getD 0 0, b1 := span.getD 1 0, b2 := span.getD 2 0, b3 := span.getD 3 0
                    inLen := span.length, pc := pc } }

end Sys2Proof.Machine
end

