-- ==== Sys2Proof/Machine/Text.lean ====
section
/-!
DEFINITION. The text functions of spec/00_scope.md R13 (`dec`, `hex`, `hex8`) and the sign conversion of R12; formats by
spec/42_renderer.md R149.
-/
namespace Sys2Proof.Machine

/-- `signed_N(u)` for an unsigned `u` below `2^N`, `N >= 1` (00_scope R12). -/
def signedN (n : Nat) (u : Nat) : Int := if u ≥ 2 ^ (n - 1) then (u : Int) - 2 ^ n else u

/-- `zext_N(v)`: `v mod 2^N`, the non-negative remainder (00_scope R12). -/
def zextN (n : Nat) (v : Int) : Nat := (v % 2 ^ n).toNat

/-- `sext_N(v)`: `signed_N(v mod 2^N)` for any integer (00_scope R12). -/
def sextN (n : Nat) (v : Int) : Int := signedN n (zextN n v)

/-- The digit `d`, below 16, in lowercase (42_renderer R149). -/
def digitChar (d : Nat) : Char := Char.ofNat (if d < 10 then 48 + d else 87 + d)

/-- The digits of `n` in base `b` before `acc`, at most `fuel` of them, the last digit nearest to `acc`. -/
def digitsBefore (b : Nat) : Nat → Nat → Text → Text
  | 0, _, acc => acc
  | fuel + 1, n, acc =>
    if n / b = 0 then digitChar (n % b) :: acc
    else digitsBefore b fuel (n / b) (digitChar (n % b) :: acc)

/-- The digits of `n` in base `b`, `b` at least 2, without leading zeros, `0` for zero. A number has at most
`log2 n + 1` digits. -/
def digits (b n : Nat) : Text := digitsBefore b (n.log2 + 1) n []

/-- `dec(v)`: decimal, a `-` for a negative number, no `+`, no leading zeros (00_scope R13; 42_renderer R149). -/
def dec (v : Int) : Text := if v < 0 then '-' :: digits 10 v.natAbs else digits 10 v.natAbs

/-- `hex(v)`: lowercase hexadecimal without a leading `0x` and without leading zeros (00_scope R13). -/
def hex (v : Nat) : Text := digits 16 v

/-- `hex8(v)`: `v mod 2^32` as exactly 8 lowercase hexadecimal digits (00_scope R13; 42_renderer R149). -/
def hex8 (v : Nat) : Text := [28, 24, 20, 16, 12, 8, 4, 0].map fun k => digitChar (v / 2 ^ k % 16)

/-- A text of operands, separated by a comma and a space (42_renderer R141). -/
def commaJoin : List Text → Text
  | [] => []
  | [t] => t
  | t :: t' :: ts => t ++ txt ", " ++ commaJoin (t' :: ts)

/-- A line: the mnemonic, one space, the operands (42_renderer R141; 30_encoding R90). -/
def line (mnemonic : Text) (operands : List Text) : Text := mnemonic ++ txt " " ++ commaJoin operands

end Sys2Proof.Machine
end

