-- ==== Sys2Proof/Machine/Operands.lean ====
section
/-!
DEFINITION. The operand forms of the Renderer: register names (spec/42_renderer.md R140), the immediate policy (R143 to
R148) and the memory operand (R156, R158; spec/20_memory.md R52).
-/
namespace Sys2Proof.Machine

/-- `regname(i, fp)`: the name of register index `i` in the floating-point or the general-purpose table (42_renderer
R140). -/
def regname (c : Constants) (i : RegIdx) (fp : Bool) : Text :=
  if fp then c.fprName[i.toNat]'i.isLt else c.gprName[i.toNat]'i.isLt

/-- `D(rec, q)`, the destination: `FPR_D` governs `rd` (42_renderer R140; D11). -/
def operandD (c : Constants) (q : Quirks) (rd : RegIdx) : Text := regname c rd q.fprD

/-- `J(rec, q)`, source 1: `FPR_J` governs `rj` (42_renderer R140; D11). -/
def operandJ (c : Constants) (q : Quirks) (rj : RegIdx) : Text := regname c rj q.fprJ

/-- `K(rec, q)`, source 2: `FPR_K` governs `rk` (42_renderer R140; D11). -/
def operandK (c : Constants) (q : Quirks) (rk : RegIdx) : Text := regname c rk q.fprK

/-- `A(rec)`, the fourth operand of `FFFF`: always floating-point (42_renderer R140). -/
def operandA (c : Constants) (ra : RegIdx) : Text := regname c ra true

/-- The immediate after `MINUS32`, then `SHL2`, on mathematical integers (42_renderer R143, R144, R145; D12). -/
def immValue (q : Quirks) (raw : Nat) : Int :=
  let v : Int := if q.minus32 then (raw : Int) - 32 else raw
  if q.shl2 then v * 4 else v

/-- The width of the immediate after `SHL2`: `N + 2`, else `N` (42_renderer R143, R145; D13). -/
def immWidth (q : Quirks) (n : Nat) : Nat := if q.shl2 then n + 2 else n

/-- The pc-relative target of a signed offset counted in instructions: `(pc + 4 * S) mod 2^64`, from the word's own
address (42_renderer R148; 10_state R25, R27). -/
def jumpTarget (pc : Addr) (offset : Int) : Nat := zextN 64 ((pc.toNat : Int) + 4 * offset)

/-- `IMM(raw, N, q, pc, always_signed, jump_ok)`, the immediate policy: an effective `JUMP`, then `HEX`, then the
signed form of the always-signed shapes, then the plain decimal (42_renderer R143). -/
def imm (raw n : Nat) (q : Quirks) (pc : Addr) (alwaysSigned jumpOk : Bool) : Text :=
  if q.jump && jumpOk then txt "0x" ++ hex (jumpTarget pc (sextN (immWidth q n) (immValue q raw)))
  else if q.hex then txt "0x" ++ hex (zextN 32 (immValue q raw))
  else if alwaysSigned then dec (sextN (immWidth q n) (immValue q raw))
  else dec (immValue q raw)

/-- A memory operand `offset(base)`, no space before or inside the parentheses (42_renderer R156). -/
def memOperand (offset base : Text) : Text := offset ++ txt "(" ++ base ++ txt ")"

end Sys2Proof.Machine
end

