-- ==== Sys2Proof/Machine/Render.lean ====
section
/-!
DEFINITION. The Renderer: one operand template per shape (spec/42_renderer.md R151 to R163) and `RENDER` (R141). `c` are
the constants (for the name tables), `m` the row's mnemonic, `q` its quirks.
-/
namespace Sys2Proof.Machine

/-- Shape `RR` (42_renderer R151). -/
def renderRr (c : Constants) (m : Text) (q : Quirks) (rj rd : RegIdx) : Text :=
  line m [operandD c q rd, operandJ c q rj]

/-- Shape `RRR` (42_renderer R152). -/
def renderRrr (c : Constants) (m : Text) (q : Quirks) (rk rj rd : RegIdx) : Text :=
  line m [operandD c q rd, operandJ c q rj, operandK c q rk]

/-- Shape `FFFF` (42_renderer R153). -/
def renderFfff (c : Constants) (m : Text) (q : Quirks) (ra rk rj rd : RegIdx) : Text :=
  line m [operandD c q rd, operandJ c q rj, operandK c q rk, operandA c ra]

/-- Shape `RRI6` (42_renderer R154). -/
def renderRri6 (c : Constants) (m : Text) (q : Quirks) (pc : Addr) (i : BitVec 6) (rj rd : RegIdx) : Text :=
  line m [operandD c q rd, operandJ c q rj, imm i.toNat 6 q pc false false]

/-- Shape `RRI8` (42_renderer R155). -/
def renderRri8 (c : Constants) (m : Text) (q : Quirks) (pc : Addr) (i : BitVec 8) (rj rd : RegIdx) : Text :=
  line m [operandD c q rd, operandJ c q rj, imm i.toNat 8 q pc false false]

/-- Shape `RRI12`, always sign-extended, with the memory form under `LDST` (42_renderer R156). -/
def renderRri12 (c : Constants) (m : Text) (q : Quirks) (pc : Addr) (i : BitVec 12) (rj rd : RegIdx) : Text :=
  if q.ldst then line m [operandD c q rd, memOperand (imm i.toNat 12 q pc true false) (operandJ c q rj)]
  else line m [operandD c q rd, operandJ c q rj, imm i.toNat 12 q pc true false]

/-- Shape `RRI6I6`, the first immediate (the lower field) first (42_renderer R157). -/
def renderRri6i6 (c : Constants) (m : Text) (q : Quirks) (pc : Addr) (iB iA : BitVec 6) (rj rd : RegIdx) : Text :=
  line m [operandD c q rd, operandJ c q rj, imm iA.toNat 6 q pc false false, imm iB.toNat 6 q pc false false]

/-- Shape `RRI14`, always sign-extended, with the memory form under `LDST` (42_renderer R158). -/
def renderRri14 (c : Constants) (m : Text) (q : Quirks) (pc : Addr) (i : BitVec 14) (rj rd : RegIdx) : Text :=
  if q.ldst then line m [operandD c q rd, memOperand (imm i.toNat 14 q pc true false) (operandJ c q rj)]
  else line m [operandD c q rd, operandJ c q rj, imm i.toNat 14 q pc true false]

/-- Shape `RRI16`, pc-relative under `JUMP` (42_renderer R159). -/
def renderRri16 (c : Constants) (m : Text) (q : Quirks) (pc : Addr) (i : BitVec 16) (rj rd : RegIdx) : Text :=
  line m [operandD c q rd, operandJ c q rj, imm i.toNat 16 q pc false true]

/-- Shape `AUI20` (42_renderer R160). -/
def renderAui20 (c : Constants) (m : Text) (q : Quirks) (pc : Addr) (i : BitVec 20) (rd : RegIdx) : Text :=
  line m [operandD c q rd, imm i.toNat 20 q pc false false]

/-- Shape `RI21`, pc-relative under `JUMP` (42_renderer R161). -/
def renderRi21 (c : Constants) (m : Text) (q : Quirks) (pc : Addr) (i : BitVec 21) (rj : RegIdx) : Text :=
  line m [operandJ c q rj, imm i.toNat 21 q pc false true]

/-- Shape `I25`, pc-relative under `JUMP` (42_renderer R162). -/
def renderI25 (m : Text) (q : Quirks) (pc : Addr) (i : BitVec 25) : Text :=
  line m [imm i.toNat 25 q pc false true]

/-- Shape `UNKNOWN`: the tag, one space, the raw word in 8 hexadecimal digits (42_renderer R163). -/
def renderUnknown (raw : Word) : Text := txt "??? " ++ hex8 raw.toNat

/-- `RENDER(row, rec, pc)`: dispatches on the record's tag, which is the row's shape (42_renderer R141). -/
def render (c : Constants) (row : Row) (rec : Record) (pc : Addr) : Text :=
  match rec with
  | .rr _ _ rj rd => renderRr c row.mnemonic row.quirks rj rd
  | .rrr _ _ rk rj rd => renderRrr c row.mnemonic row.quirks rk rj rd
  | .ffff _ _ ra rk rj rd => renderFfff c row.mnemonic row.quirks ra rk rj rd
  | .rri6 _ _ i rj rd => renderRri6 c row.mnemonic row.quirks pc i rj rd
  | .rri8 _ _ i rj rd => renderRri8 c row.mnemonic row.quirks pc i rj rd
  | .rri12 _ _ i rj rd => renderRri12 c row.mnemonic row.quirks pc i rj rd
  | .rri6i6 _ _ iB iA rj rd => renderRri6i6 c row.mnemonic row.quirks pc iB iA rj rd
  | .rri14 _ _ i rj rd => renderRri14 c row.mnemonic row.quirks pc i rj rd
  | .rri16 _ i rj rd => renderRri16 c row.mnemonic row.quirks pc i rj rd
  | .aui20 _ _ i rd => renderAui20 c row.mnemonic row.quirks pc i rd
  | .ri21 _ i rj => renderRi21 c row.mnemonic row.quirks pc i rj
  | .i25 _ i => renderI25 row.mnemonic row.quirks pc i
  | .unknown raw => renderUnknown raw

end Sys2Proof.Machine
end

