-- ==== Sys2Proof/Machine/BranchShapes.lean ====
section
/-!
DEFINITION. The meanings of the shapes whose immediate may be a pc-relative offset: `RRI16`, `RI21`, `I25`
(spec/41_field_decoder.md R132, R134, R135; spec/42_renderer.md R159, R161, R162).
-/
namespace Sys2Proof.Machine

/-- Shape `RRI16`: record R132, text R159. -/
def execRri16 (row : RowRef) (opcode : BitVec 6) (imm : BitVec 16) (rj rd : RegIdx) (s : State) :
    Host.Outcome State Fault Refusal :=
  .next (s.report row (some row.mnemonic) (.rri16 opcode imm rj rd)
    (renderRri16 s.consts row.mnemonic row.quirks s.inp.pc imm rj rd))

/-- Shape `RI21`: record R134, text R161. -/
def execRi21 (row : RowRef) (opcode : BitVec 6) (imm : BitVec 21) (rj : RegIdx) (s : State) :
    Host.Outcome State Fault Refusal :=
  .next (s.report row (some row.mnemonic) (.ri21 opcode imm rj)
    (renderRi21 s.consts row.mnemonic row.quirks s.inp.pc imm rj))

/-- Shape `I25`: record R135, text R162. Bit 9 of the word, `_ignored`, changes neither. -/
def execI25 (row : RowRef) (opcode : BitVec 6) (imm : BitVec 25) (_ignored : BitVec 1) (s : State) :
    Host.Outcome State Fault Refusal :=
  .next (s.report row (some row.mnemonic) (.i25 opcode imm) (renderI25 row.mnemonic row.quirks s.inp.pc imm))

end Sys2Proof.Machine
end

