-- ==== Sys2Proof/Machine/ImmediateShapes.lean ====
section
/-!
DEFINITION. The meanings of the shapes with a plain immediate: `RRI6`, `RRI8`, `RRI12`, `RRI6I6`, `RRI14`, `AUI20`
(spec/41_field_decoder.md R127 to R131, R133; spec/42_renderer.md R154 to R158, R160).
-/
namespace Sys2Proof.Machine

/-- Shape `RRI6`: record R127, text R154. -/
def execRri6 (row : RowRef) (opcode : BitVec 6) (selector : BitVec 10) (imm : BitVec 6) (rj rd : RegIdx) (s : State) :
    Host.Outcome State Fault Refusal :=
  .next (s.report row (some row.mnemonic) (.rri6 opcode selector imm rj rd)
    (renderRri6 s.consts row.mnemonic row.quirks s.inp.pc imm rj rd))

/-- Shape `RRI8`: record R128, text R155. -/
def execRri8 (row : RowRef) (opcode : BitVec 6) (selector : BitVec 8) (imm : BitVec 8) (rj rd : RegIdx) (s : State) :
    Host.Outcome State Fault Refusal :=
  .next (s.report row (some row.mnemonic) (.rri8 opcode selector imm rj rd)
    (renderRri8 s.consts row.mnemonic row.quirks s.inp.pc imm rj rd))

/-- Shape `RRI12`: record R129, text R156. -/
def execRri12 (row : RowRef) (opcode : BitVec 6) (selector : BitVec 4) (imm : BitVec 12) (rj rd : RegIdx) (s : State) :
    Host.Outcome State Fault Refusal :=
  .next (s.report row (some row.mnemonic) (.rri12 opcode selector imm rj rd)
    (renderRri12 s.consts row.mnemonic row.quirks s.inp.pc imm rj rd))

/-- Shape `RRI6I6`: record R130, text R157. -/
def execRri6i6 (row : RowRef) (opcode : BitVec 6) (selector : BitVec 4) (immB immA : BitVec 6) (rj rd : RegIdx)
    (s : State) : Host.Outcome State Fault Refusal :=
  .next (s.report row (some row.mnemonic) (.rri6i6 opcode selector immB immA rj rd)
    (renderRri6i6 s.consts row.mnemonic row.quirks s.inp.pc immB immA rj rd))

/-- Shape `RRI14`: record R131, text R158. -/
def execRri14 (row : RowRef) (opcode : BitVec 6) (selector : BitVec 2) (imm : BitVec 14) (rj rd : RegIdx) (s : State) :
    Host.Outcome State Fault Refusal :=
  .next (s.report row (some row.mnemonic) (.rri14 opcode selector imm rj rd)
    (renderRri14 s.consts row.mnemonic row.quirks s.inp.pc imm rj rd))

/-- Shape `AUI20`: record R133, text R160. -/
def execAui20 (row : RowRef) (opcode : BitVec 6) (selector : BitVec 1) (imm : BitVec 20) (rd : RegIdx) (s : State) :
    Host.Outcome State Fault Refusal :=
  .next (s.report row (some row.mnemonic) (.aui20 opcode selector imm rd)
    (renderAui20 s.consts row.mnemonic row.quirks s.inp.pc imm rd))

end Sys2Proof.Machine
end

