-- ==== Sys2Proof/Machine/RegisterShapes.lean ====
section
/-!
DEFINITION. The meanings of the register shapes `RR`, `RRR`, `FFFF` (spec/41_field_decoder.md R124 to R126;
spec/42_renderer.md R151 to R153).
-/
namespace Sys2Proof.Machine

/-- Shape `RR`: record R124, text R151. -/
def execRr (row : RowRef) (opcode : BitVec 6) (selector : BitVec 16) (rj rd : RegIdx) (s : State) :
    Host.Outcome State Fault Refusal :=
  .next (s.report row (some row.mnemonic) (.rr opcode selector rj rd)
    (renderRr s.consts row.mnemonic row.quirks rj rd))

/-- Shape `RRR`: record R125, text R152. -/
def execRrr (row : RowRef) (opcode : BitVec 6) (selector : BitVec 11) (rk rj rd : RegIdx) (s : State) :
    Host.Outcome State Fault Refusal :=
  .next (s.report row (some row.mnemonic) (.rrr opcode selector rk rj rd)
    (renderRrr s.consts row.mnemonic row.quirks rk rj rd))

/-- Shape `FFFF`: record R126, text R153. -/
def execFfff (row : RowRef) (opcode : BitVec 6) (selector : BitVec 6) (ra rk rj rd : RegIdx) (s : State) :
    Host.Outcome State Fault Refusal :=
  .next (s.report row (some row.mnemonic) (.ffff opcode selector ra rk rj rd)
    (renderFfff s.consts row.mnemonic row.quirks ra rk rj rd))

end Sys2Proof.Machine
end

