-- ==== Sys2Proof/Machine/ShownRows.lean ====
section
/-!
DEFINITION. The meanings of the four table rows the source shows, each from the pseudocode of its own rule
(spec/43_table_rows.md R180 to R183).
-/
namespace Sys2Proof.Machine

/-- Row `add`: three general registers, printed `rd, rj, rk` (R180). -/
def execAdd (idx : Nat) (quirks : Quirks) (opcode : BitVec 6) (selector : BitVec 11) (rk rj rd : RegIdx) (s : State) :
    Host.Outcome State Fault Refusal :=
  .next (s.report ⟨idx, txt "add", quirks⟩ (some (txt "add")) (.rrr opcode selector rk rj rd)
    (txt "add " ++ regname s.consts rd false ++ txt ", " ++ regname s.consts rj false ++ txt ", " ++
      regname s.consts rk false))

/-- Row `lw`: a general data register and the memory operand `simm12(rj)` (R181). -/
def execLw (idx : Nat) (quirks : Quirks) (opcode : BitVec 6) (selector : BitVec 4) (imm : BitVec 12) (rj rd : RegIdx)
    (s : State) : Host.Outcome State Fault Refusal :=
  .next (s.report ⟨idx, txt "lw", quirks⟩ (some (txt "lw")) (.rri12 opcode selector imm rj rd)
    (txt "lw " ++ regname s.consts rd false ++ txt ", " ++ dec (sextN 12 imm.toNat) ++ txt "(" ++
      regname s.consts rj false ++ txt ")"))

/-- Row `j`: one pc-relative target (R182). Bit 9 of the word, `_ignored`, changes nothing. -/
def execJ (idx : Nat) (quirks : Quirks) (opcode : BitVec 6) (imm : BitVec 25) (_ignored : BitVec 1) (s : State) :
    Host.Outcome State Fault Refusal :=
  .next (s.report ⟨idx, txt "j", quirks⟩ (some (txt "j")) (.i25 opcode imm)
    (txt "j 0x" ++ hex (zextN 64 ((s.inp.pc.toNat : Int) + 4 * sextN 25 imm.toNat))))

/-- Row `slliw`: two registers and the shift amount `imm - 32` in decimal (R183). -/
def execSlliw (idx : Nat) (quirks : Quirks) (opcode : BitVec 6) (selector : BitVec 10) (imm : BitVec 6)
    (rj rd : RegIdx) (s : State) : Host.Outcome State Fault Refusal :=
  .next (s.report ⟨idx, txt "slliw", quirks⟩ (some (txt "slliw")) (.rri6 opcode selector imm rj rd)
    (txt "slliw " ++ operandD s.consts quirks rd ++ txt ", " ++ operandJ s.consts quirks rj ++ txt ", " ++
      dec ((imm.toNat : Int) - 32)))

end Sys2Proof.Machine
end

