-- ==== Sys2Proof/Machine/UnknownShape.lean ====
section
/-!
DEFINITION. The meanings of the shape `UNKNOWN` (spec/41_field_decoder.md R136; spec/42_renderer.md R163) and of the
sentinel row (spec/43_table_rows.md R184; spec/60_exceptions.md R192).
-/
namespace Sys2Proof.Machine

/-- Shape `UNKNOWN`: record R136, text R163. -/
def execUnknown (row : RowRef) (raw : Word) (s : State) : Host.Outcome State Fault Refusal :=
  .next (s.report row (some row.mnemonic) (.unknown raw) (renderUnknown raw))

/-- The sentinel row: an unrecognised word consumes 4 bytes and shows the raw word; the row has no mnemonic and no
quirk (R184, R192). -/
def execSentinel (idx : Nat) (raw : Word) (s : State) : Host.Outcome State Fault Refusal :=
  .next (s.report ⟨idx, [], Quirks.none⟩ none (.unknown raw) (txt "??? " ++ hex8 raw.toNat))

end Sys2Proof.Machine
end

