-- ==== Sys2Proof/Machine/Dispatch.lean ====
section
/-!
DEFINITION. One arm per constructor of `Instr`, each one call of the instruction's meaning.
-/
namespace Sys2Proof.Machine

/-- The meaning of an instruction: what an evaluation of its word puts on the output ports. -/
def exec (i : Instr) (s : State) : Host.Outcome State Fault Refusal :=
  match i with
  | .rr row opcode selector rj rd => Sys2Proof.Machine.execRr row opcode selector rj rd s
  | .rrr row opcode selector rk rj rd => Sys2Proof.Machine.execRrr row opcode selector rk rj rd s
  | .ffff row opcode selector ra rk rj rd => Sys2Proof.Machine.execFfff row opcode selector ra rk rj rd s
  | .rri6 row opcode selector imm rj rd => Sys2Proof.Machine.execRri6 row opcode selector imm rj rd s
  | .rri8 row opcode selector imm rj rd => Sys2Proof.Machine.execRri8 row opcode selector imm rj rd s
  | .rri12 row opcode selector imm rj rd => Sys2Proof.Machine.execRri12 row opcode selector imm rj rd s
  | .rri6i6 row opcode selector immB immA rj rd => Sys2Proof.Machine.execRri6i6 row opcode selector immB immA rj rd s
  | .rri14 row opcode selector imm rj rd => Sys2Proof.Machine.execRri14 row opcode selector imm rj rd s
  | .rri16 row opcode imm rj rd => Sys2Proof.Machine.execRri16 row opcode imm rj rd s
  | .aui20 row opcode selector imm rd => Sys2Proof.Machine.execAui20 row opcode selector imm rd s
  | .ri21 row opcode imm rj => Sys2Proof.Machine.execRi21 row opcode imm rj s
  | .i25 row opcode imm ignored => Sys2Proof.Machine.execI25 row opcode imm ignored s
  | .unknown row raw => Sys2Proof.Machine.execUnknown row raw s
  | .add idx quirks opcode selector rk rj rd => Sys2Proof.Machine.execAdd idx quirks opcode selector rk rj rd s
  | .lw idx quirks opcode selector imm rj rd => Sys2Proof.Machine.execLw idx quirks opcode selector imm rj rd s
  | .j idx quirks opcode imm ignored => Sys2Proof.Machine.execJ idx quirks opcode imm ignored s
  | .slliw idx quirks opcode selector imm rj rd => Sys2Proof.Machine.execSlliw idx quirks opcode selector imm rj rd s
  | .sentinel idx raw => Sys2Proof.Machine.execSentinel idx raw s

end Sys2Proof.Machine
end

