-- ==== Sys2Proof/Machine/Step.lean ====
section
/-!
DEFINITION. One step of the machine is one evaluation of `DEC` (spec/00_scope.md R14; spec/70_reset_and_hazards.md R231).
-/
namespace Sys2Proof.Machine

/-- One evaluation: constants that are no admitted parameter value are refused (00_scope R9; 70_reset_and_hazards
R222); then the length check, MATCH and DECODE (`State.fetch`), and the meaning of the instruction found. -/
def step (s : State) : Host.Outcome State Fault Refusal :=
  match s.refusal? with
  | some r => .refused r
  | none =>
    match s.fetch with
    | .ok i => exec i s
    | .error r => s.rejected r

/-- The state in which the host presents the word whose low `nbits` bits are those of `w` (the bits above are 0): its
four bytes, little-endian, on `in_bytes`, and `in_len = 4`. The table, the names, the capacity and `pc` stay. -/
def State.withFetchWord (s : State) (nbits w : Nat) : State :=
  let word : Word := BitVec.ofNat 32 (w % 2 ^ nbits)
  { s with inp := { b0 := byteOf word 0, b1 := byteOf word 1, b2 := byteOf word 2, b3 := byteOf word 3
                    inLen := 4, pc := s.inp.pc } }

end Sys2Proof.Machine
end

