-- ==== Sys2Proof/Machine/Eval.lean ====
section
/-!
DEFINITION. The evaluation as spec/00_scope.md R14 composes it, a pure function of the constants and the inputs that
knows no instruction type: the clear form that `step` refines.
-/
namespace Sys2Proof.Machine

/-- `EVAL(in_bytes, in_len, pc)` (00_scope R14): the length check, the word, MATCH, DECODE under the matched row's
shape, RENDER, truncation. `none` where no row matches, which an admitted table excludes (40_matcher R101). The sentinel
has no mnemonic to put on the port (30_encoding R87). -/
def eval (c : Constants) (x : Inputs) : Option Outputs :=
  if x.inLen < 4 then some Outputs.insufficient
  else
    let word := assembleWord x.b0 x.b1 x.b2 x.b3
    match matchWord c.itable word with
    | none => none
    | some (idx, row) =>
      let rec_ := decodeFields word row.shape
      let full := render c row rec_ x.pc
      some
        { consumed := 4
          idx := some idx
          shape := some row.shape
          quirks := some row.quirks
          mnemonic := if row = Row.sentinel then none else some row.mnemonic
          record := some rec_
          text := full.take c.cap
          textLen := min c.cap full.length }

end Sys2Proof.Machine
end

