-- ==== Sys2Proof/Machine/Walk.lean ====
section
/-!
DEFINITION. The host's walk over a byte span (spec/10_state.md R26; spec/95_test_vectors.md section 4). It is the host's, not
`DEC`'s: it drives the input ports, takes one step and reads the outputs, again and again.
-/
namespace Sys2Proof.Machine

/-- The walk: evaluate the bytes at `pc`; after `consumed = 4` go on at `pc + 4` (modulo `2^64`) with the remaining
bytes; after insufficient input stop there. The answer lists each evaluation with its `pc`, and the final `pc`. At most
`fuel` evaluations. -/
def walk (s : State) : Nat → List Byte → Addr → Host.Outcome (List (Addr × Outputs) × Addr) Fault Refusal
  | 0, _, pc => .next ([], pc)
  | fuel + 1, span, pc =>
    match step (s.present span pc) with
    | .next t =>
      if t.out.consumed = 4 then
        match walk s fuel (span.drop 4) (pc + 4) with
        | .next (log, last) => .next ((pc, t.out) :: log, last)
        | .fault r => .fault r
        | .refused r => .refused r
      else .next ([(pc, t.out)], pc)
    | .fault r => .fault r
    | .refused r => .refused r

end Sys2Proof.Machine
end

