-- ==== Sys2Proof/Safety.lean ====
section
/-!
DEFINITION. The terms in which claims about the machine are made: what outputs are consistent with the constants, what a
host can tell from them, and what a text of digits denotes.
-/
namespace Sys2Proof.Machine

/-- `w[hi:lo]`, the slice of a word as a number: `(w >> lo) & (2^(hi-lo+1) - 1)` (00_scope R10). -/
def bits (w : Word) (hi lo : Nat) : Nat := w.toNat / 2 ^ lo % 2 ^ (hi - lo + 1)

/-- The state `s` with output ports that show one decoded word: 4 bytes consumed, the given row, record and full text,
the text cut at `CAP` characters (10_state R29; 40_matcher R104; 42_renderer R170). Constants and inputs are those of
`s`. -/
def State.showing (s : State) (idx : Nat) (shape : Shape) (quirks : Quirks) (mnemonic : Option Text) (rec : Record)
    (full : Text) : State :=
  { s with
    out :=
      { consumed := 4, idx := some idx, shape := some shape, quirks := some quirks, mnemonic := mnemonic
        record := some rec, text := full.take s.consts.cap, textLen := min s.consts.cap full.length } }

/-- A word the table recognised: `shape != UNKNOWN` (40_matcher R104). -/
def Outputs.recognised (o : Outputs) : Bool :=
  match o.shape with
  | some sh => sh != .unknown
  | none => false

/-- What a host that must know compares: the text may have been cut (60_exceptions R193). -/
def Outputs.possiblyTruncated (c : Constants) (o : Outputs) : Bool := o.textLen == c.cap

/-- The outputs of an evaluation that reported insufficient input (10_state R29; 60_exceptions R191): a negative count,
no text, no other port with a value. -/
structure Outputs.ShortInput (o : Outputs) : Prop where
  consumed : o.consumed = -1
  idx : o.idx = none
  shape : o.shape = none
  quirks : o.quirks = none
  mnemonic : o.mnemonic = none
  record : o.record = none
  text : o.text = []
  textLen : o.textLen = 0

/-- The outputs of an evaluation that decoded a word, as far as the constants bind them: 4 bytes consumed; the ports
`shape`, `quirks`, `mnemonic` are those of row `idx` of the table; the record has the row's shape; the text is not empty,
has at most `CAP` characters and `text_len` counts them (10_state R29; 40_matcher R104, R107; 42_renderer R170, R171). -/
structure Outputs.OneWord (c : Constants) (o : Outputs) : Prop where
  consumed : o.consumed = 4
  row : ∃ idx row rec, c.itable[idx]? = some row ∧ idx ≤ c.nRows ∧ o.idx = some idx ∧ o.shape = some row.shape ∧
    o.quirks = some row.quirks ∧ o.mnemonic = (if row = Row.sentinel then none else some row.mnemonic) ∧
    o.record = some rec ∧ rec.shape = row.shape ∧ (idx = c.nRows ↔ row.shape = .unknown)
  textNonempty : o.text ≠ []
  textLen : o.textLen = o.text.length
  bounded : o.textLen ≤ c.cap

/-- The invariant of the machine: admitted constants; every character of the text is printable ASCII (42_renderer
R166); and the output ports show either a short input or one decoded word. -/
structure State.Inv (s : State) : Prop where
  admitted : s.consts.admitted = true
  characters : textPrintable s.out.text = true
  ports : s.out.ShortInput ∨ s.out.OneWord s.consts

/-- The value of a digit `0` to `9`, `a` to `f`. -/
def digitValue (c : Char) : Nat := if c.toNat < 58 then c.toNat - 48 else c.toNat - 87

/-- The number a text of digits denotes in base `b`, the first digit being the most significant. -/
def digitsValue (b : Nat) (t : Text) : Nat := t.foldl (fun n c => n * b + digitValue c) 0

/-- A lowercase hexadecimal digit. -/
def isHexDigit (c : Char) : Bool := (48 ≤ c.toNat && c.toNat ≤ 57) || (97 ≤ c.toNat && c.toNat ≤ 102)

end Sys2Proof.Machine
end

