-- ==== Sys2Proof/Certificates/Slice0/Obligations.lean ====
section
/-!
DEFINITION. The statements for the provers. Each docstring names the rule it formalises, or says what it is derived from.
A statement over all states is a statement over all values of the constants ITABLE, GPR_NAME, FPR_NAME and CAP.
-/
open Sys2Proof Sys2Proof.Machine

/-! ## What each instruction does: the whole next state -/

/-- Shape `RR` runs in every state and prints `rd, rj` (42_renderer R151). -/
def Obligations.RrShowsTwoRegisters : Prop :=
  ∀ row opcode selector rj rd s,
    exec (.rr row opcode selector rj rd) s =
      .next (s.showing row.idx .rr row.quirks (some row.mnemonic) (.rr opcode selector rj rd)
        (row.mnemonic ++ txt " " ++ regname s.consts rd row.quirks.fprD ++ txt ", " ++
          regname s.consts rj row.quirks.fprJ))

/-- Shape `RRR` runs in every state and prints `rd, rj, rk`, each under its own register-file flag (42_renderer R152). -/
def Obligations.RrrShowsThreeRegisters : Prop :=
  ∀ row opcode selector rk rj rd s,
    exec (.rrr row opcode selector rk rj rd) s =
      .next (s.showing row.idx .rrr row.quirks (some row.mnemonic) (.rrr opcode selector rk rj rd)
        (row.mnemonic ++ txt " " ++ regname s.consts rd row.quirks.fprD ++ txt ", " ++
          regname s.consts rj row.quirks.fprJ ++ txt ", " ++ regname s.consts rk row.quirks.fprK))

/-- Shape `FFFF` runs in every state and prints `rd, rj, rk, ra`, the fourth always floating-point (42_renderer R153). -/
def Obligations.FfffShowsFourRegisters : Prop :=
  ∀ row opcode selector ra rk rj rd s,
    exec (.ffff row opcode selector ra rk rj rd) s =
      .next (s.showing row.idx .ffff row.quirks (some row.mnemonic) (.ffff opcode selector ra rk rj rd)
        (row.mnemonic ++ txt " " ++ regname s.consts rd row.quirks.fprD ++ txt ", " ++
          regname s.consts rj row.quirks.fprJ ++ txt ", " ++ regname s.consts rk row.quirks.fprK ++ txt ", " ++
          regname s.consts ra true))

/-- Shape `RRI6` runs in every state and prints `rd, rj` and its 6-bit immediate (42_renderer R154). -/
def Obligations.Rri6ShowsImmediate : Prop :=
  ∀ row opcode selector i rj rd s,
    exec (.rri6 row opcode selector i rj rd) s =
      .next (s.showing row.idx .rri6 row.quirks (some row.mnemonic) (.rri6 opcode selector i rj rd)
        (row.mnemonic ++ txt " " ++ regname s.consts rd row.quirks.fprD ++ txt ", " ++
          regname s.consts rj row.quirks.fprJ ++ txt ", " ++ imm i.toNat 6 row.quirks s.inp.pc false false))

/-- Shape `RRI8` runs in every state and prints `rd, rj` and its 8-bit immediate (42_renderer R155). -/
def Obligations.Rri8ShowsImmediate : Prop :=
  ∀ row opcode selector i rj rd s,
    exec (.rri8 row opcode selector i rj rd) s =
      .next (s.showing row.idx .rri8 row.quirks (some row.mnemonic) (.rri8 opcode selector i rj rd)
        (row.mnemonic ++ txt " " ++ regname s.consts rd row.quirks.fprD ++ txt ", " ++
          regname s.consts rj row.quirks.fprJ ++ txt ", " ++ imm i.toNat 8 row.quirks s.inp.pc false false))

/-- Shape `RRI12` runs in every state and prints a memory operand under `LDST`, three operands otherwise (42_renderer
R156). -/
def Obligations.Rri12ShowsOperandOrMemory : Prop :=
  ∀ row opcode selector i rj rd s,
    exec (.rri12 row opcode selector i rj rd) s =
      .next (s.showing row.idx .rri12 row.quirks (some row.mnemonic) (.rri12 opcode selector i rj rd)
        (if row.quirks.ldst then
          row.mnemonic ++ txt " " ++ regname s.consts rd row.quirks.fprD ++ txt ", " ++
            imm i.toNat 12 row.quirks s.inp.pc true false ++ txt "(" ++ regname s.consts rj row.quirks.fprJ ++ txt ")"
        else
          row.mnemonic ++ txt " " ++ regname s.consts rd row.quirks.fprD ++ txt ", " ++
            regname s.consts rj row.quirks.fprJ ++ txt ", " ++ imm i.toNat 12 row.quirks s.inp.pc true false))

/-- Shape `RRI6I6` runs in every state and prints `rd, rj`, the lower immediate, then the higher one (42_renderer
R157). -/
def Obligations.Rri6i6ShowsBothImmediates : Prop :=
  ∀ row opcode selector iB iA rj rd s,
    exec (.rri6i6 row opcode selector iB iA rj rd) s =
      .next (s.showing row.idx .rri6i6 row.quirks (some row.mnemonic) (.rri6i6 opcode selector iB iA rj rd)
        (row.mnemonic ++ txt " " ++ regname s.consts rd row.quirks.fprD ++ txt ", " ++
          regname s.consts rj row.quirks.fprJ ++ txt ", " ++ imm iA.toNat 6 row.quirks s.inp.pc false false ++ txt ", " ++
          imm iB.toNat 6 row.quirks s.inp.pc false false))

/-- Shape `RRI14` runs in every state and prints a memory operand under `LDST`, three operands otherwise (42_renderer
R158). -/
def Obligations.Rri14ShowsOperandOrMemory : Prop :=
  ∀ row opcode selector i rj rd s,
    exec (.rri14 row opcode selector i rj rd) s =
      .next (s.showing row.idx .rri14 row.quirks (some row.mnemonic) (.rri14 opcode selector i rj rd)
        (if row.quirks.ldst then
          row.mnemonic ++ txt " " ++ regname s.consts rd row.quirks.fprD ++ txt ", " ++
            imm i.toNat 14 row.quirks s.inp.pc true false ++ txt "(" ++ regname s.consts rj row.quirks.fprJ ++ txt ")"
        else
          row.mnemonic ++ txt " " ++ regname s.consts rd row.quirks.fprD ++ txt ", " ++
            regname s.consts rj row.quirks.fprJ ++ txt ", " ++ imm i.toNat 14 row.quirks s.inp.pc true false))

/-- Shape `RRI16` runs in every state and prints `rd, rj` and its immediate or pc-relative target (42_renderer R159). -/
def Obligations.Rri16ShowsImmediateOrTarget : Prop :=
  ∀ row opcode i rj rd s,
    exec (.rri16 row opcode i rj rd) s =
      .next (s.showing row.idx .rri16 row.quirks (some row.mnemonic) (.rri16 opcode i rj rd)
        (row.mnemonic ++ txt " " ++ regname s.consts rd row.quirks.fprD ++ txt ", " ++
          regname s.consts rj row.quirks.fprJ ++ txt ", " ++ imm i.toNat 16 row.quirks s.inp.pc false true))

/-- Shape `AUI20` runs in every state and prints `rd` and its 20-bit immediate (42_renderer R160). -/
def Obligations.Aui20ShowsImmediate : Prop :=
  ∀ row opcode selector i rd s,
    exec (.aui20 row opcode selector i rd) s =
      .next (s.showing row.idx .aui20 row.quirks (some row.mnemonic) (.aui20 opcode selector i rd)
        (row.mnemonic ++ txt " " ++ regname s.consts rd row.quirks.fprD ++ txt ", " ++
          imm i.toNat 20 row.quirks s.inp.pc false false))

/-- Shape `RI21` runs in every state and prints `rj` and its immediate or pc-relative target (42_renderer R161). -/
def Obligations.Ri21ShowsImmediateOrTarget : Prop :=
  ∀ row opcode i rj s,
    exec (.ri21 row opcode i rj) s =
      .next (s.showing row.idx .ri21 row.quirks (some row.mnemonic) (.ri21 opcode i rj)
        (row.mnemonic ++ txt " " ++ regname s.consts rj row.quirks.fprJ ++ txt ", " ++
          imm i.toNat 21 row.quirks s.inp.pc false true))

/-- Shape `I25` runs in every state and prints its immediate or pc-relative target; bit 9 of the word changes nothing
(42_renderer R162). -/
def Obligations.I25ShowsImmediateOrTarget : Prop :=
  ∀ row opcode i ignored s,
    exec (.i25 row opcode i ignored) s =
      .next (s.showing row.idx .i25 row.quirks (some row.mnemonic) (.i25 opcode i)
        (row.mnemonic ++ txt " " ++ imm i.toNat 25 row.quirks s.inp.pc false true))

/-- Shape `UNKNOWN` runs in every state and prints the tag and the raw word in 8 hexadecimal digits (42_renderer
R163). -/
def Obligations.UnknownShowsRawWord : Prop :=
  ∀ row raw s,
    exec (.unknown row raw) s =
      .next (s.showing row.idx .unknown row.quirks (some row.mnemonic) (.unknown raw) (txt "??? " ++ hex8 raw.toNat))

/-- Row `add` runs in every state and prints three general registers; its register-file flags are clear; and a table that
passes the checks of a candidate holds such a row, of shape `RRR`, that recognises the word `0x00108020` (43_table_rows
R180). -/
def Obligations.AddShowsGeneralRegisters : Prop :=
  (∀ idx quirks opcode selector rk rj rd s,
    exec (.add idx quirks opcode selector rk rj rd) s =
      .next (s.showing idx .rrr quirks (some (txt "add")) (.rrr opcode selector rk rj rd)
        (txt "add " ++ regname s.consts rd false ++ txt ", " ++ regname s.consts rj false ++ txt ", " ++
          regname s.consts rk false))) ∧
  (∀ idx quirks opcode selector rk rj rd, Instr.wf (.add idx quirks opcode selector rk rj rd) = true ↔
    quirks.fprD = false ∧ quirks.fprJ = false ∧ quirks.fprK = false) ∧
  ∀ t : List Row, candidateTable t = true →
    ∃ r ∈ t, r.mnemonic = txt "add" ∧ r.shape = .rrr ∧ r.quirks.fprD = false ∧ r.quirks.fprJ = false ∧
      r.quirks.fprK = false ∧ 0x00108020#32 &&& r.mask = r.matchBits

/-- Row `lw` runs in every state and prints a general register and the memory operand `simm12(rj)`; `LDST` is set, the
flags that would change the text are clear (43_table_rows R181). -/
def Obligations.LwShowsMemoryOperand : Prop :=
  (∀ idx quirks opcode selector (i : BitVec 12) rj rd s,
    exec (.lw idx quirks opcode selector i rj rd) s =
      .next (s.showing idx .rri12 quirks (some (txt "lw")) (.rri12 opcode selector i rj rd)
        (txt "lw " ++ regname s.consts rd false ++ txt ", " ++ dec i.toInt ++ txt "(" ++ regname s.consts rj false ++
          txt ")"))) ∧
  ∀ idx quirks opcode selector i rj rd, Instr.wf (.lw idx quirks opcode selector i rj rd) = true ↔
    quirks.ldst = true ∧ quirks.fprD = false ∧ quirks.fprJ = false ∧ quirks.hex = false ∧ quirks.minus32 = false ∧
      quirks.shl2 = false

/-- Row `j` runs in every state and prints its pc-relative target, `pc + 4 * offset` modulo `2^64`; `JUMP` is set, `SHL2`
and `MINUS32` are clear (43_table_rows R182). -/
def Obligations.JShowsTarget : Prop :=
  (∀ idx quirks opcode (i : BitVec 25) ignored s,
    exec (.j idx quirks opcode i ignored) s =
      .next (s.showing idx .i25 quirks (some (txt "j")) (.i25 opcode i)
        (txt "j 0x" ++ hex (s.inp.pc + 4 * i.signExtend 64).toNat))) ∧
  ∀ idx quirks opcode i ignored, Instr.wf (.j idx quirks opcode i ignored) = true ↔
    quirks.jump = true ∧ quirks.shl2 = false ∧ quirks.minus32 = false

/-- Row `slliw` runs in every state and prints two registers and `imm - 32` in decimal; `MINUS32` is set, `HEX` and `SHL2`
are clear, the register-file flags are open (43_table_rows R183). -/
def Obligations.SlliwShowsBiasedAmount : Prop :=
  (∀ idx quirks opcode selector (i : BitVec 6) rj rd s,
    exec (.slliw idx quirks opcode selector i rj rd) s =
      .next (s.showing idx .rri6 quirks (some (txt "slliw")) (.rri6 opcode selector i rj rd)
        (txt "slliw " ++ regname s.consts rd quirks.fprD ++ txt ", " ++ regname s.consts rj quirks.fprJ ++ txt ", " ++
          dec ((i.toNat : Int) - 32)))) ∧
  ∀ idx quirks opcode selector i rj rd, Instr.wf (.slliw idx quirks opcode selector i rj rd) = true ↔
    quirks.minus32 = true ∧ quirks.hex = false ∧ quirks.shl2 = false

/-- The sentinel row runs in every state: 4 bytes consumed, the tag and the raw word, no mnemonic, no quirk; it is the last
row of every admitted table, with mask and match 0, and recognises every word (43_table_rows R184). -/
def Obligations.SentinelShowsRawWord : Prop :=
  (∀ idx raw s,
    exec (.sentinel idx raw) s =
      .next (s.showing idx .unknown Quirks.none none (.unknown raw) (txt "??? " ++ hex8 raw.toNat))) ∧
  ∀ c : Constants, tableAdmitted c.itable = true →
    ∃ r, c.itable[c.nRows]? = some r ∧ r.shape = .unknown ∧ r.mask = 0 ∧ r.matchBits = 0 ∧ r.quirks = {} ∧
      r.mnemonic = [] ∧ ∀ w, r.recognises w = true

/-! ## Operands, immediates and number texts -/

/-- A register operand is the entry of its index in the table its flag selects, and in admitted name tables entries 0
to 4 of the general-purpose table are the five names the source states (42_renderer R140; 10_state R23). -/
def Obligations.RegisterNamesFromTables : Prop :=
  (∀ (c : Constants) (i : RegIdx), regname c i true = c.fprName.toList.getD i.toNat [] ∧
    regname c i false = c.gprName.toList.getD i.toNat []) ∧
  ∀ c : Constants, c.namesAdmitted = true →
    regname c 0 false = txt "zero" ∧ regname c 1 false = txt "ra" ∧ regname c 2 false = txt "r2" ∧
      regname c 3 false = txt "sp" ∧ regname c 4 false = txt "a0"

/-- The immediate policy: subtract 32, scale by 4 with two more bits of width, then an effective `JUMP`, `HEX`, the
signed form, or the plain decimal (42_renderer R143). For `HEX` on a value that `MINUS32` made negative it follows the
rule's `v mod 2^32` (assumption log 8). -/
def Obligations.ImmediatePolicy : Prop :=
  ∀ (raw n : Nat) (q : Quirks) (pc : Addr) (alwaysSigned jumpOk : Bool) (v : Int) (w : Nat),
    v = ((raw : Int) - if q.minus32 then 32 else 0) * (if q.shl2 then 4 else 1) →
    w = n + (if q.shl2 then 2 else 0) →
    imm raw n q pc alwaysSigned jumpOk =
      if q.jump = true ∧ jumpOk = true then txt "0x" ++ hex (((pc.toNat : Int) + 4 * sextN w v) % 2 ^ 64).toNat
      else if q.hex = true then txt "0x" ++ hex (v % 2 ^ 32).toNat
      else if alwaysSigned = true then dec (sextN w v)
      else dec v

/-- The sign conversion: its definition, its range, and that it is congruent to the unsigned form; `sext_N` reduces
modulo `2^N` first (00_scope R12). -/
def Obligations.SignConversion : Prop :=
  ∀ n : Nat, 1 ≤ n →
    (∀ u : Nat, u < 2 ^ n →
      signedN n u = (if 2 ^ (n - 1) ≤ u then (u : Int) - 2 ^ n else (u : Int)) ∧
      -(2 : Int) ^ (n - 1) ≤ signedN n u ∧ signedN n u ≤ 2 ^ (n - 1) - 1 ∧ signedN n u % 2 ^ n = (u : Int)) ∧
    ∀ v : Int, sextN n v = signedN n (v % 2 ^ n).toNat ∧ (zextN n v : Int) = v % 2 ^ n ∧
      -(2 : Int) ^ (n - 1) ≤ sextN n v ∧ sextN n v ≤ 2 ^ (n - 1) - 1 ∧ sextN n v % 2 ^ n = v % 2 ^ n

/-- After `SHL2`, sign-extending at width `N + 2` is the same as sign-extending the `N`-bit field and multiplying by 4,
and the two low bits of the scaled field are zero (42_renderer R145; 90_conflicts C4). -/
def Obligations.ScaledImmediateSignExtends : Prop :=
  ∀ (n raw : Nat) (q : Quirks), 1 ≤ n → raw < 2 ^ n → q.minus32 = false → q.shl2 = true →
    immWidth q n = n + 2 ∧ immValue q raw = 4 * (raw : Int) ∧
      sextN (immWidth q n) (immValue q raw) = 4 * sextN n raw ∧ immValue q raw % 4 = 0

/-- For a value that `MINUS32` has not touched, the sign extension is the source's conversion of the unsigned field; a
value that `MINUS32` made negative comes back unchanged (derived from 42_renderer R146). -/
def Obligations.SignExtensionAfterBias : Prop :=
  ∀ (n raw : Nat) (q : Quirks), 6 ≤ n → raw < 2 ^ n →
    (q.minus32 = false → sextN (immWidth q n) (immValue q raw) = signedN (immWidth q n) (immValue q raw).toNat) ∧
    (immValue q raw < 0 → sextN (immWidth q n) (immValue q raw) = immValue q raw)

/-- A target is the 64-bit sum of `pc` and four times the signed offset, wrapping silently, and the two low bits of `pc`
pass unchanged into it (10_state R27). -/
def Obligations.JumpTargetWraps : Prop :=
  ∀ (pc : Addr) (offset : Int),
    jumpTarget pc offset = (pc + 4 * BitVec.ofInt 64 offset).toNat ∧ jumpTarget pc offset < 2 ^ 64 ∧
      jumpTarget pc offset % 4 = pc.toNat % 4

/-- `hex(v)` is the lowercase hexadecimal text of `v` without leading zeros, the one digit `0` for zero (derived from 00_scope R13 and
42_renderer R149). -/
def Obligations.HexTextDenotesNumber : Prop :=
  ∀ v : Nat, digitsValue 16 (hex v) = v ∧ (hex v).all isHexDigit = true ∧ hex v ≠ [] ∧
    ((hex v).head? = some '0' → v = 0 ∧ hex v = ['0'])

/-- `dec(v)` is the decimal text of the integer: a `-` exactly for a negative number, then the digits of its absolute
value without leading zeros, the one digit `0` for zero, no `+` (derived from 00_scope R13 and 42_renderer R149). -/
def Obligations.DecTextDenotesInteger : Prop :=
  ∀ v : Int, ∃ ds : Text,
    dec v = (if v < 0 then ['-'] else []) ++ ds ∧ digitsValue 10 ds = v.natAbs ∧ ds ≠ [] ∧
      (ds.all fun c => decide (48 ≤ c.toNat) && decide (c.toNat ≤ 57)) = true ∧
        (ds.head? = some '0' → v = 0 ∧ ds = ['0'])

/-- `hex8(v)` has exactly 8 lowercase hexadecimal digits that denote `v mod 2^32`, so the text of the unknown shape has 12
characters and shows all 32 bits of the word (derived from 00_scope R13 and 42_renderer R163). -/
def Obligations.UnknownTextShowsWholeWord : Prop :=
  (∀ v : Nat, (hex8 v).length = 8 ∧ (hex8 v).all isHexDigit = true ∧ digitsValue 16 (hex8 v) = v % 2 ^ 32) ∧
  ∀ w w' : Word, (renderUnknown w).length = 12 ∧ (renderUnknown w = renderUnknown w' → w = w')

/-! ## The Matcher -/

/-- MATCH returns `(i, r)` exactly when `r` is row `i` of the table, it satisfies `(w & mask) == match`, and no row of
smaller index does: the first match wins, and any other way to look rows up that has these properties gives the same
answer (40_matcher R100). -/
def Obligations.MatchIsFirstRow : Prop :=
  ∀ (t : List Row) (w : Word) (i : Nat) (r : Row),
    matchWord t w = some (i, r) ↔
      t[i]? = some r ∧ w &&& r.mask = r.matchBits ∧ ∀ k r', k < i → t[k]? = some r' → w &&& r'.mask ≠ r'.matchBits

/-- For every admitted table and every word MATCH answers, and its answer satisfies the laws (a) to (d) (40_matcher
R107). -/
def Obligations.MatchLawsOnAdmittedTable : Prop :=
  ∀ (c : Constants) (w : Word), tableAdmitted c.itable = true →
    ∃ i r, matchWord c.itable w = some (i, r) ∧ w &&& r.mask = r.matchBits ∧
      (∀ k r', k < i → c.itable[k]? = some r' → w &&& r'.mask ≠ r'.matchBits) ∧
      i ≤ c.nRows ∧ (i = c.nRows ↔ r.shape = .unknown)

/-- A row standing after a row that matches every word it matches is never returned; `Row.shadows` tells such a pair from
masks and matches alone (derived from 40_matcher R102 and 70_reset_and_hazards R226). -/
def Obligations.ShadowedRowUnreachable : Prop :=
  ∀ (t : List Row) (k i : Nat) (general specific : Row), k < i → t[k]? = some general → t[i]? = some specific →
    (general.shadows specific = true → ∀ w, specific.recognises w = true → general.recognises w = true) ∧
    ((∀ w, specific.recognises w = true → general.recognises w = true) → ∀ w r, matchWord t w ≠ some (i, r))

/-- A row recognises a word exactly when `(w & mask) == match`; a row that breaks the mask invariant recognises no word,
and a table holding one is not admitted (30_encoding R86). -/
def Obligations.RowRecognition : Prop :=
  ∀ r : Row, (∀ w, r.recognises w = true ↔ w &&& r.mask = r.matchBits) ∧
    (r.matchBits &&& ~~~r.mask ≠ 0 →
      (∀ w, r.recognises w = false) ∧ ∀ t : List Row, r ∈ t → tableAdmitted t = false)

/-! ## The Field Decoder, the word and the encoder -/

/-- DECODE takes each field of the ten shapes whose fields are contiguous from its bit range; with each rule's own worked
example (41_field_decoder R124 to R133). -/
def Obligations.DecodeContiguousFields : Prop :=
  (∀ w : Word,
    decodeFields w .rr = .rr (BitVec.ofNat 6 (bits w 31 26)) (BitVec.ofNat 16 (bits w 25 10))
      (BitVec.ofNat 5 (bits w 9 5)) (BitVec.ofNat 5 (bits w 4 0)) ∧
    decodeFields w .rrr = .rrr (BitVec.ofNat 6 (bits w 31 26)) (BitVec.ofNat 11 (bits w 25 15))
      (BitVec.ofNat 5 (bits w 14 10)) (BitVec.ofNat 5 (bits w 9 5)) (BitVec.ofNat 5 (bits w 4 0)) ∧
    decodeFields w .ffff = .ffff (BitVec.ofNat 6 (bits w 31 26)) (BitVec.ofNat 6 (bits w 25 20))
      (BitVec.ofNat 5 (bits w 19 15)) (BitVec.ofNat 5 (bits w 14 10)) (BitVec.ofNat 5 (bits w 9 5))
      (BitVec.ofNat 5 (bits w 4 0)) ∧
    decodeFields w .rri6 = .rri6 (BitVec.ofNat 6 (bits w 31 26)) (BitVec.ofNat 10 (bits w 25 16))
      (BitVec.ofNat 6 (bits w 15 10)) (BitVec.ofNat 5 (bits w 9 5)) (BitVec.ofNat 5 (bits w 4 0)) ∧
    decodeFields w .rri8 = .rri8 (BitVec.ofNat 6 (bits w 31 26)) (BitVec.ofNat 8 (bits w 25 18))
      (BitVec.ofNat 8 (bits w 17 10)) (BitVec.ofNat 5 (bits w 9 5)) (BitVec.ofNat 5 (bits w 4 0)) ∧
    decodeFields w .rri12 = .rri12 (BitVec.ofNat 6 (bits w 31 26)) (BitVec.ofNat 4 (bits w 25 22))
      (BitVec.ofNat 12 (bits w 21 10)) (BitVec.ofNat 5 (bits w 9 5)) (BitVec.ofNat 5 (bits w 4 0)) ∧
    decodeFields w .rri6i6 = .rri6i6 (BitVec.ofNat 6 (bits w 31 26)) (BitVec.ofNat 4 (bits w 25 22))
      (BitVec.ofNat 6 (bits w 21 16)) (BitVec.ofNat 6 (bits w 15 10)) (BitVec.ofNat 5 (bits w 9 5))
      (BitVec.ofNat 5 (bits w 4 0)) ∧
    decodeFields w .rri14 = .rri14 (BitVec.ofNat 6 (bits w 31 26)) (BitVec.ofNat 2 (bits w 25 24))
      (BitVec.ofNat 14 (bits w 23 10)) (BitVec.ofNat 5 (bits w 9 5)) (BitVec.ofNat 5 (bits w 4 0)) ∧
    decodeFields w .rri16 = .rri16 (BitVec.ofNat 6 (bits w 31 26)) (BitVec.ofNat 16 (bits w 25 10))
      (BitVec.ofNat 5 (bits w 9 5)) (BitVec.ofNat 5 (bits w 4 0)) ∧
    decodeFields w .aui20 = .aui20 (BitVec.ofNat 6 (bits w 31 26)) (BitVec.ofNat 1 (bits w 25 25))
      (BitVec.ofNat 20 (bits w 24 5)) (BitVec.ofNat 5 (bits w 4 0))) ∧
  decodeFields 0x00001085 .rr = .rr 0 0x0004 4 5 ∧
  decodeFields 0x00108020 .rrr = .rrr 0 0x021 0 1 0 ∧ decodeFields 0x00108820 .rrr = .rrr 0 0x021 2 1 0 ∧
  decodeFields 0x08118820 .ffff = .ffff 2 1 3 2 1 0 ∧ decodeFields 0x0040A0A4 .rri6 = .rri6 0 0x040 40 5 4 ∧
  decodeFields 0x0C03FCA4 .rri8 = .rri8 3 0 255 5 4 ∧ decodeFields 0x28800464 .rri12 = .rri12 10 2 1 3 4 ∧
  decodeFields 0x0067A0A4 .rri6i6 = .rri6i6 0 1 39 40 5 4 ∧
  decodeFields 0x24FFFC64 .rri14 = .rri14 9 0 0x3FFF 3 4 ∧ decodeFields 0x5BFFFC85 .rri16 = .rri16 22 0xFFFF 4 5 ∧
  decodeFields 0x14000024 .aui20 = .aui20 5 0 1 4

/-- DECODE assembles the two split immediates high part first, ignores bit 9 of an I25 word, and keeps the whole word of
shape `UNKNOWN`; with each rule's own worked example (41_field_decoder R134, R135; derived from R136 for the last). -/
def Obligations.DecodeSplitFields : Prop :=
  (∀ w : Word,
    decodeFields w .ri21 = .ri21 (BitVec.ofNat 6 (bits w 31 26))
      (BitVec.ofNat 21 (bits w 4 0 * 2 ^ 16 + bits w 25 10)) (BitVec.ofNat 5 (bits w 9 5)) ∧
    decodeFields w .i25 = .i25 (BitVec.ofNat 6 (bits w 31 26)) (BitVec.ofNat 25 (bits w 8 0 * 2 ^ 16 + bits w 25 10)) ∧
    decodeFields (w ^^^ 0x200) .i25 = decodeFields w .i25 ∧ decodeFields w .unknown = .unknown w) ∧
  decodeFields 0x43FFFC9F .ri21 = .ri21 16 0x1FFFFF 4 ∧ decodeFields 0x40000880 .ri21 = .ri21 16 2 4 ∧
  decodeFields 0x50001000 .i25 = .i25 20 4 ∧ decodeFields 0x50001200 .i25 = .i25 20 4 ∧
  decodeFields 0x00000000 .unknown = .unknown 0x00000000

/-- No bit is dropped except bit 9 of an I25 word: the word is rebuilt from its record, and the record of shape I25 depends
on the other 31 bits alone (41_field_decoder R138). -/
def Obligations.RecordRebuildsWord : Prop :=
  ∀ (w : Word) (bit9 : BitVec 1),
    (∀ sh : Shape, (decodeFields w sh).shape = sh ∧
      (sh ≠ .i25 → (decodeFields w sh).word bit9 = w)) ∧
    (decodeFields w .i25).word 0 = w &&& ~~~(0x200#32) ∧
    (∀ (w' : Word) (sh : Shape), sh ≠ .i25 → decodeFields w sh = decodeFields w' sh → w = w') ∧
    ∀ w' : Word, w &&& ~~~(0x200#32) = w' &&& ~~~(0x200#32) ↔ decodeFields w .i25 = decodeFields w' .i25

/-- The word is assembled little-endian: byte `k` supplies `word[8k+7:8k]`, so the opcode is in the last byte and `rd` in
the first; with the rule's two examples (20_memory R42). -/
def Obligations.WordIsLittleEndian : Prop :=
  (∀ b0 b1 b2 b3 : Byte,
    (assembleWord b0 b1 b2 b3).toNat = b0.toNat + 2 ^ 8 * b1.toNat + 2 ^ 16 * b2.toNat + 2 ^ 24 * b3.toNat ∧
    wordBytes (assembleWord b0 b1 b2 b3) = [b0, b1, b2, b3] ∧
    (opcodeOf (assembleWord b0 b1 b2 b3)).toNat = b3.toNat / 4 ∧
    (rdOf (assembleWord b0 b1 b2 b3)).toNat = b0.toNat % 32) ∧
  (∀ w : Word, assembleWord (byteOf w 0) (byteOf w 1) (byteOf w 2) (byteOf w 3) = w) ∧
  assembleWord 0x20 0x80 0x10 0x00 = 0x00108020 ∧ assembleWord 0x64 0x04 0x80 0x28 = 0x28800464

/-- Decoding the bytes of an encoded well-formed instruction gives it back, for every constructor, every operand at every
value, under every table that holds its row and reads its word by it (derived from 41_field_decoder R138 and 40_matcher
R100). -/
def Obligations.DecodeOfEncode : Prop :=
  ∀ (t : List Row) (i : Instr) (rest : List Byte), i.wf = true → i.placedIn t = true →
    decode t (wordBytes (encode i) ++ rest) = .ok i

/-- Encoding a decoded instruction gives back the word of the first four bytes, whatever the table (derived from
41_field_decoder R138). -/
def Obligations.EncodeOfDecode : Prop :=
  ∀ (t : List Row) (span : List Byte) (i : Instr), decode t span = .ok i →
    wordBytes (encode i) = span.take 4

/-- Under an admitted table every decoded instruction is well-formed, is placed in the table, and is `sentinel` exactly
when no row before the last recognises the word; the generic `unknown` does not arise (derived from 00_scope R9,
40_matcher R101, R107, 43_table_rows R180 to R184). -/
def Obligations.DecodedIsWellFormed : Prop :=
  ∀ (c : Constants) (span : List Byte) (i : Instr), tableAdmitted c.itable = true → decode c.itable span = .ok i →
    i.wf = true ∧ i.placedIn c.itable = true ∧ i.ref.idx ≤ c.nRows ∧
      (i.ref.idx = c.nRows ↔ ∃ raw, i = .sentinel c.nRows raw) ∧ ∀ row raw, i ≠ .unknown row raw

/-- The decoder is total: it rejects exactly the spans of fewer than four bytes as insufficient, decodes every longer one
under an admitted table, and does not look at bytes beyond the fourth (derived from 20_memory R41, R44, 40_matcher R101,
41_field_decoder R137). -/
def Obligations.DecoderIsTotal : Prop :=
  ∀ (t : List Row) (span : List Byte),
    (decode t span = .error .insufficientInput ↔ span.length < 4) ∧
    (4 ≤ span.length → decode t span = decode t (span.take 4)) ∧
    (tableAdmitted t = true → 4 ≤ span.length → ∃ i, decode t span = .ok i)

/-- Words written out from the encodings decode, under the table of the spec's vectors, to the instructions they stand for
(95_test_vectors sections 3.1, 3.2; the table is the model's choice, assumption log 1). -/
def Obligations.KnownWordsDecode : Prop :=
  decodeTableWord 32 0x00108820 = some (.add 2 {} 0 0x021 2 1 0) ∧
  decodeTableWord 32 0x28800464 = some (.lw 14 { ldst := true } 10 2 1 3 4) ∧
  decodeTableWord 32 0x50001200 = some (.j 23 { jump := true } 20 4 1) ∧
  decodeTableWord 32 0x0040A0A4 = some (.slliw 3 { minus32 := true } 0 0x040 40 5 4) ∧
  decodeTableWord 32 0x0067A0A4 = some (.rri6i6 ⟨5, txt "bstrw", { minus32 := true }⟩ 0 1 39 40 5 4) ∧
  decodeTableWord 32 0x4C000020 = some (.rri16 ⟨0, txt "ret", {}⟩ 19 0 1 0) ∧
  decodeTableWord 32 0xDEADBEEF = some (.sentinel 25 0xDEADBEEF)

/-! ## One step -/

/-- When the four bytes on the input ports decode to a well-formed instruction, a step is that instruction's meaning and
nothing else (derived from 00_scope R14). -/
def Obligations.StepRunsDecodedInstruction : Prop :=
  ∀ (s : State) (i : Instr), s.consts.admitted = true → 4 ≤ s.inp.inLen →
    decode s.consts.itable [s.inp.b0, s.inp.b1, s.inp.b2, s.inp.b3] = .ok i → i.wf = true →
    step s = exec i s

/-- Fewer than four bytes: `consumed` is -1, the text is empty, no other port has a value, whatever the bytes and `pc`
(derived from 60_exceptions R191). That the count is negative and nothing is decoded is the source's; the value -1 and the
empty text are a choice, which R191 itself calls the spec's own (D18), followed by the model (assumption log 9). -/
def Obligations.InsufficientInput : Prop :=
  ∀ s : State, s.consts.admitted = true → s.inp.inLen < 4 →
    step s = .next { s with
      out := { consumed := -1, idx := none, shape := none, quirks := none, mnemonic := none, record := none
               text := [], textLen := 0 } }

/-- A word no row before the sentinel recognises is not an error: 4 bytes consumed, `idx = N_ROWS`, shape `UNKNOWN`, the
raw word in the record and in the text (60_exceptions R192). -/
def Obligations.UnrecognisedWordIsShownRaw : Prop :=
  ∀ (s : State) (w : Word), s.consts.admitted = true → 4 ≤ s.inp.inLen →
    w = assembleWord s.inp.b0 s.inp.b1 s.inp.b2 s.inp.b3 →
    (∀ k r, k < s.consts.nRows → s.consts.itable[k]? = some r → r.recognises w = false) →
    step s = .next (s.showing s.consts.nRows .unknown Quirks.none none (.unknown w) (txt "??? " ++ hex8 w.toNat))

/-- One step is one evaluation as the spec composes it: the length check, MATCH, DECODE under the matched shape, RENDER,
truncation; constants and inputs stay (00_scope R14). -/
def Obligations.StepIsEvaluation : Prop :=
  ∀ s : State, s.consts.admitted = true →
    ∃ o, eval s.consts s.inp = some o ∧ step s = .next { s with out := o }

/-- No evaluation fails: with admitted constants the Matcher always succeeds, every state has a next state, whatever
`pc`, the word and the row, a decoded word gives a non-empty text, and retrying changes nothing (60_exceptions R194). -/
def Obligations.EvaluationNeverFails : Prop :=
  ∀ s : State, s.consts.admitted = true →
    (∀ w, (matchWord s.consts.itable w).isSome = true) ∧
    ∃ t, step s = .next t ∧ (4 ≤ s.inp.inLen → t.out.text ≠ []) ∧ step t = .next t

/-- A table that is not admitted is refused, and the constants that are not admitted are the only ground for a refusal
(derived from 00_scope R8, R9 and 10_state R24). That such a table gives `tableNotAdmitted` also where the names or the
capacity are not admitted either is the order in which `step` tests the constants, the model's choice (assumption log 13). -/
def Obligations.OnlyInadmissibleConstantsRefused : Prop :=
  ∀ s : State,
    (tableAdmitted s.consts.itable = false → step s = .refused .tableNotAdmitted) ∧
    (s.consts.admitted = false ↔ ∃ r, step s = .refused r)

/-- What a table must be to be admitted: rows of the twelve named shapes whose match lies within the mask and whose
mnemonic is a non-empty printable text, then the sentinel (derived from 00_scope R9, 30_encoding R87, 42_renderer R166). -/
def Obligations.AdmittedTableForm : Prop :=
  ∀ t : List Row, tableAdmitted t = true ↔
    ∃ rows, t = rows ++ [Row.sentinel] ∧
      ∀ r ∈ rows, r.shape ≠ .unknown ∧ r.matchBits &&& ~~~r.mask = 0 ∧ r.mnemonic ≠ [] ∧
        textPrintable r.mnemonic = true

/-- A step changes no constant and no input: `pc` is not advanced, the tables are never written (derived from 10_state R20,
R21, R25, R26). -/
def Obligations.StepKeepsConstantsAndInputs : Prop :=
  ∀ s t : State, step s = .next t → t.consts = s.consts ∧ t.inp = s.inp ∧ t = { s with out := t.out }

/-- The outputs are a function of the first four bytes, of whether there are four, of `pc` and of the constants alone: the
outputs of an earlier evaluation, the exact length and absent bytes do not matter (10_state R35). -/
def Obligations.OutputsDependOnInputsAlone : Prop :=
  ∀ s s' t : State, s.consts = s'.consts → s.inp.pc = s'.inp.pc → (4 ≤ s.inp.inLen ↔ 4 ≤ s'.inp.inLen) →
    (4 ≤ s.inp.inLen → s.inp.b0 = s'.inp.b0 ∧ s.inp.b1 = s'.inp.b1 ∧ s.inp.b2 = s'.inp.b2 ∧ s.inp.b3 = s'.inp.b3) →
    step s = .next t → ∃ t', step s' = .next t' ∧ t'.out = t.out

/-- `pc` is read in one place: it can change nothing but the text, and not the text either unless the matched row has
`JUMP` on a shape where it acts (derived from 10_state R25 and 42_renderer R148). -/
def Obligations.PcMovesJumpTargetsOnly : Prop :=
  ∀ (s t : State) (pc' : Addr), step s = .next t →
    ∃ t', step { s with inp := { s.inp with pc := pc' } } = .next t' ∧
      t'.out = { t.out with text := t'.out.text, textLen := t'.out.textLen } ∧
      (t'.out ≠ t.out → ∃ q sh, t.out.quirks = some q ∧ q.jump = true ∧ t.out.shape = some sh ∧
        (sh = .rri16 ∨ sh = .ri21 ∨ sh = .i25))

/-- Retrying changes nothing: the evaluation of the state after an evaluation is that state (derived from 60_exceptions
R194 and 10_state R35). -/
def Obligations.RetryingChangesNothing : Prop :=
  ∀ s t : State, step s = .next t → step t = .next t

/-- Every step, from any state, leaves output ports that are consistent: printable characters, and either a short input
or exactly one row of the table with its record and a non-empty text within the capacity (derived from 10_state R29,
40_matcher R107, 42_renderer R166, R170, R171). -/
def Obligations.EveryStepKeepsOutputsConsistent : Prop :=
  ∀ s t : State, step s = .next t → t.Inv

/-- The state after reset satisfies the invariant, and its output ports are the function of its input ports that 10_state
R36 makes them. The reset constants and inputs are the model's choice (assumption log 1 to 5). -/
def Obligations.ResetOutputsConsistent : Prop :=
  State.reset.Inv ∧ eval State.reset.consts State.reset.inp = some State.reset.out

/-- Truncation changes the text and its length only, silently, and a smaller capacity shows the first characters of what a
larger one shows (derived from 42_renderer R170 and 60_exceptions R193). -/
def Obligations.TruncationOnlyCutsText : Prop :=
  ∀ (s t : State) (larger : Nat), step s = .next t → s.consts.cap ≤ larger →
    ∃ t', step { s with consts := { s.consts with cap := larger } } = .next t' ∧
      t.out = { t'.out with text := t'.out.text.take s.consts.cap, textLen := min s.consts.cap t'.out.textLen } ∧
      (t'.out.textLen ≤ s.consts.cap → t.out = t'.out)

/-- The mnemonic is printed exactly as the row holds it: the text of a recognised word is the mnemonic, verbatim, one
space and the operands, as far as the capacity lets it; and nothing is inferred from it: with any other mnemonic in the
row, the operands and every other output are the same (42_renderer R165). -/
def Obligations.MnemonicPrintedVerbatim : Prop :=
  ∀ (s t : State) (idx : Nat) (row : Row), step s = .next t → t.out.idx = some idx →
    s.consts.itable[idx]? = some row → idx < s.consts.nRows →
    ∃ operands, t.out.text = (row.mnemonic ++ txt " " ++ operands).take s.consts.cap ∧
      t.out.mnemonic = some row.mnemonic ∧
      ∀ m, mnemonicOk m = true →
        ∃ t', step { s with consts := { s.consts with itable := s.consts.itable.set idx { row with mnemonic := m } } } =
            .next t' ∧
          t'.out = { t.out with
            mnemonic := some m
            text := (m ++ txt " " ++ operands).take s.consts.cap
            textLen := min s.consts.cap (m ++ txt " " ++ operands).length }

/-! ## Quirk flags, codes and the shown rows -/

/-- Which flag acts on which shape, as the rule's table has it (rows in the order of the shapes, columns in the order of
the flags): a flag the shape lacks is ignored, whatever the row, the record and `pc`; a flag it honours changes the text of
some word (42_renderer R150). -/
def Obligations.QuirkFlagsActByShape : Prop :=
  Shape.all.map (fun sh => QuirkFlag.all.map fun f => (sh.honours f).toNat) =
    [[0, 0, 0, 0, 1, 1, 0, 0], [0, 0, 0, 0, 1, 1, 1, 0], [0, 0, 0, 0, 1, 1, 1, 0], [1, 0, 1, 1, 1, 1, 0, 0],
     [1, 0, 1, 1, 1, 1, 0, 0], [1, 0, 1, 1, 1, 1, 0, 1], [1, 0, 1, 1, 1, 1, 0, 0], [1, 0, 1, 1, 1, 1, 0, 1],
     [1, 1, 1, 1, 1, 1, 0, 0], [1, 0, 1, 1, 1, 0, 0, 0], [1, 1, 1, 1, 0, 1, 0, 0], [1, 1, 1, 1, 0, 0, 0, 0],
     [0, 0, 0, 0, 0, 0, 0, 0]] ∧
  (∀ (c : Constants) (row : Row) (rec : Record) (pc : Addr) (f : QuirkFlag) (v : Bool), rec.shape.honours f = false →
    render c { row with quirks := row.quirks.put f v } rec pc = render c row rec pc) ∧
  ∀ (sh : Shape) (f : QuirkFlag), sh.honours f = true →
    ∃ (c : Constants) (row : Row) (w : Word) (pc : Addr), c.namesAdmitted = true ∧ row.shape = sh ∧
      render c { row with quirks := row.quirks.put f true } (decodeFields w sh) pc ≠
        render c { row with quirks := row.quirks.put f false } (decodeFields w sh) pc

/-- The codes on the ports: shapes are numbered 0 to 12 in the source's order of listing, and flag `k` of the eight is bit
`k` of the quirk byte (30_encoding R61, R85; the numbers are the spec's decisions D3, D4). -/
def Obligations.PortCodesInListingOrder : Prop :=
  Shape.all.map (fun sh => sh.code.toNat) = List.range 13 ∧ (∀ sh : Shape, sh ∈ Shape.all) ∧
  QuirkFlag.all.map QuirkFlag.bit = List.range 8 ∧ (∀ f : QuirkFlag, f ∈ QuirkFlag.all) ∧
  (∀ (q : Quirks) (f : QuirkFlag), q.code.getLsbD f.bit = q.has f) ∧
  ∀ q q' : Quirks, q.code = q'.code → q = q'

/-- A shown row does exactly what the generic row of its shape does with the same index, mnemonic and quirks, for every
quirk bitset its rule admits: nothing is inferred from the mnemonic (derived from 43_table_rows R180 to R183 and
42_renderer R165). -/
def Obligations.ShownRowsAgreeWithTheirShape : Prop :=
  ∀ (idx : Nat) (q : Quirks) (s : State),
    (q.fitsAdd = true → ∀ o sel rk rj rd,
      exec (.add idx q o sel rk rj rd) s = exec (.rrr ⟨idx, txt "add", q⟩ o sel rk rj rd) s) ∧
    (q.fitsLw = true → ∀ o sel i rj rd,
      exec (.lw idx q o sel i rj rd) s = exec (.rri12 ⟨idx, txt "lw", q⟩ o sel i rj rd) s) ∧
    (q.fitsJ = true → ∀ o i b, exec (.j idx q o i b) s = exec (.i25 ⟨idx, txt "j", q⟩ o i b) s) ∧
    (q.fitsSlliw = true → ∀ o sel i rj rd,
      exec (.slliw idx q o sel i rj rd) s = exec (.rri6 ⟨idx, txt "slliw", q⟩ o sel i rj rd) s)

/-- The source's worked examples, for all admitted name tables and every capacity that holds them: `add zero, ra, r2`,
`lw a0, 1(sp)`, `j 0x1010` at `pc = 0x1000`, the amount 8 of `slliw`, and `??? 00000000` (derived from 43_table_rows R180
to R184 and 95_test_vectors section 1). -/
def Obligations.SourceExamplesHold : Prop :=
  ∀ s : State, s.consts.namesAdmitted = true → 16 ≤ s.consts.cap → s.inp.pc = 0x1000 →
    (∃ t, exec (.add 0 {} 0 0x021 2 1 0) s = .next t ∧ t.out.text = txt "add zero, ra, r2") ∧
    (∃ t, exec (.lw 0 { ldst := true } 10 2 1 3 4) s = .next t ∧ t.out.text = txt "lw a0, 1(sp)") ∧
    (∃ t, exec (.j 0 { jump := true } 20 4 0) s = .next t ∧ t.out.text = txt "j 0x1010") ∧
    (∃ t, exec (.slliw 0 { minus32 := true } 0 0x040 40 3 4) s = .next t ∧ t.out.text = txt "slliw a0, sp, 8") ∧
    (∃ t, exec (.sentinel 0 0) s = .next t ∧ t.out.text = txt "??? 00000000")

/-! ## The host's walk -/

/-- A host's walk over a span of `n` bytes visits every whole word once, in order, `pc` going up by 4 modulo `2^64`, each
entry being the outputs of one step on the bytes from there on; it ends at the first short rest, where `pc` does not
advance (derived from 10_state R26). -/
def Obligations.WalkVisitsEveryWord : Prop :=
  ∀ (s : State) (span : List Byte) (pc : Addr), s.consts.admitted = true →
    ∃ log, walk s (span.length / 4 + 1) span pc = .next (log, pc + BitVec.ofNat 64 (4 * (span.length / 4))) ∧
      log.length = span.length / 4 + 1 ∧
      ∀ k a o, log[k]? = some (a, o) →
        a = pc + BitVec.ofNat 64 (4 * k) ∧
        (∃ t, step (s.present (span.drop (4 * k)) a) = .next t ∧ t.out = o) ∧
        (o.consumed = 4 ↔ k < span.length / 4) ∧ (k = span.length / 4 → o.ShortInput)
end

