-- ==== Sys2Proof/Laws/Admit.lean ====
section
/-!
SUPPORT. What the checks of a table say, as propositions about its rows, said once.
-/
namespace Sys2Proof

/-- What (a) of 43_table_rows R185 asks. -/
theorem hasBiasedTwoImmediateRow_iff (t : List Row) : hasBiasedTwoImmediateRow t = true ↔
    ∃ r ∈ t, r.shape = .rri6i6 ∧ r.quirks.minus32 = true ∧ r.quirks.hex = false ∧ r.quirks.shl2 = false ∧
      r.quirks.jump = false ∧ r.quirks.ldst = false := by
  simp [hasBiasedTwoImmediateRow, and_assoc]

/-- What (b) asks. -/
theorem noUntestedCombination_iff (t : List Row) : noUntestedCombination t = true ↔
    ∀ r ∈ t, r.quirks.minus32 = false ∨ r.quirks.shl2 = false := by
  simp [noUntestedCombination, Row.untestedCombination]

/-- What (c) asks. -/
theorem hasProvisionalMnemonic_iff (t : List Row) : hasProvisionalMnemonic t = true ↔
    ∃ r ∈ t, r.mnemonic.head? = some '!' := by
  simp [hasProvisionalMnemonic]

/-- What (d) asks. -/
theorem usesPresumed_iff (t : List Row) : usesPresumed t = true ↔
    (∀ f ∈ presumedFlags, ∃ r ∈ t, r.quirks.has f = true ∧ r.shape.honours f = true) ∧
      ∀ sh ∈ presumedShapes, ∃ r ∈ t, r.shape = sh := by
  simp [usesPresumed, Row.uses]

/-- A candidate table, check by check (43_table_rows R180 to R185). -/
theorem candidateTable_iff (t : List Row) : candidateTable t = true ↔
    tableAdmitted t = true ∧ hasAddRow t = true ∧ hasLwRow t = true ∧ hasJRow t = true ∧ hasSlliwRow t = true ∧
      hasBiasedTwoImmediateRow t = true ∧ noUntestedCombination t = true ∧ hasProvisionalMnemonic t = true ∧
        usesPresumed t = true := by
  simp [candidateTable, and_assoc]

end Sys2Proof
end

