-- ==== Sys2Proof/Laws/Fields.lean ====
section
/-!
SUPPORT. How slices of a word see fields put at bit positions: the lemmas behind every statement that decoding gives
back what encoding placed, and behind the little-endian bytes of a word.
-/
namespace Sys2Proof

/-- A slice distributes over `|||`. -/
theorem slice_or {n : Nat} (a b : BitVec n) (s l : Nat) :
    (a ||| b).extractLsb' s l = a.extractLsb' s l ||| b.extractLsb' s l := by
  apply BitVec.eq_of_getLsbD_eq
  intro k hk
  simp [hk]

/-- The slice at a field's own place is the field. -/
theorem slice_place {k : Nat} (x : BitVec k) (p : Nat) (h : p + k ≤ 32) : (place x p).extractLsb' p k = x := by
  apply BitVec.eq_of_getLsbD_eq
  intro i hi
  simp only [place, BitVec.getLsbD_extractLsb', BitVec.getLsbD_shiftLeft, BitVec.getLsbD_setWidth, hi]
  simp [show p + i < 32 by omega, show i < 32 by omega]

/-- A slice above a field does not see it. -/
theorem slice_place_below {k : Nat} (x : BitVec k) (p s l : Nat) (h : p + k ≤ s) :
    (place x p).extractLsb' s l = 0#l := by
  apply BitVec.eq_of_getLsbD_eq
  intro i hi
  simp only [place, BitVec.getLsbD_extractLsb', BitVec.getLsbD_shiftLeft, BitVec.getLsbD_setWidth, hi]
  simp [BitVec.getLsbD_of_ge x (s + i - p) (by omega)]

/-- A slice below a field does not see it. -/
theorem slice_place_above {k : Nat} (x : BitVec k) (p s l : Nat) (h : s + l ≤ p) :
    (place x p).extractLsb' s l = 0#l := by
  apply BitVec.eq_of_getLsbD_eq
  intro i hi
  simp only [place, BitVec.getLsbD_extractLsb', BitVec.getLsbD_shiftLeft, BitVec.getLsbD_setWidth, hi]
  simp [show s + i < p by omega]

/-- A split immediate is put together again from its two parts (30_encoding R82). -/
theorem splitImm_slices {n k : Nat} (h : 16 + k = n) (x : BitVec n) :
    splitImm n (x.extractLsb' 16 k) (x.extractLsb' 0 16) = x := by
  apply BitVec.eq_of_getLsbD_eq
  intro i hi
  by_cases h16 : i < 16
  · simp [splitImm, h16, hi]
  · simp only [splitImm, BitVec.getLsbD_or, BitVec.getLsbD_shiftLeft, BitVec.getLsbD_setWidth,
      BitVec.getLsbD_extractLsb']
    simp [h16, hi, show 16 + (i - 16) = i by omega, show i - 16 < k by omega, show i - 16 < n by omega]

/-- The high part of a split immediate. -/
theorem splitImm_high {n k : Nat} (h : 16 + k = n) (high : BitVec k) (low : BitVec 16) :
    (splitImm n high low).extractLsb' 16 k = high := by
  apply BitVec.eq_of_getLsbD_eq
  intro i hi
  simp only [splitImm, BitVec.getLsbD_or, BitVec.getLsbD_shiftLeft, BitVec.getLsbD_setWidth,
    BitVec.getLsbD_extractLsb', hi]
  simp [show 16 + i < n by omega, show i < n by omega]

/-- The low part of a split immediate. -/
theorem splitImm_low {n k : Nat} (h : 16 + k = n) (high : BitVec k) (low : BitVec 16) :
    (splitImm n high low).extractLsb' 0 16 = low := by
  apply BitVec.eq_of_getLsbD_eq
  intro i hi
  simp only [splitImm, BitVec.getLsbD_or, BitVec.getLsbD_shiftLeft, BitVec.getLsbD_setWidth,
    BitVec.getLsbD_extractLsb', hi]
  simp [hi, show i < n by omega]

/-- A bit of a field put at a place. -/
theorem getLsbD_place {k : Nat} (x : BitVec k) (p i : Nat) :
    (place x p).getLsbD i = (decide (i < 32) && !decide (i < p) && x.getLsbD (i - p)) := by
  simp only [place, BitVec.getLsbD_shiftLeft, BitVec.getLsbD_setWidth]
  by_cases h : i < 32
  · simp [h, show i - p < 32 by omega]
  · simp [h]

end Sys2Proof
end

