-- ==== Sys2Proof/Laws/Match.lean ====
section
/-!
SUPPORT. What the scan of the table answers (spec/40_matcher.md R100), said once.
-/
namespace Sys2Proof

/-- If the scan answers `(i, r)`, then `r` is row `i` of the scanned part, it recognises the word, and no earlier row
does. -/
theorem matchFrom_some {t : List Row} {w : Word} {base i : Nat} {r : Row} (h : matchFrom base t w = some (i, r)) :
    ∃ k, i = base + k ∧ t[k]? = some r ∧ r.recognises w = true ∧
      ∀ k' r', k' < k → t[k']? = some r' → r'.recognises w = false := by
  induction t generalizing base with
  | nil => cases h
  | cons r0 rs ih =>
    unfold matchFrom at h
    split at h
    · next hr =>
      cases h
      exact ⟨0, rfl, rfl, hr, fun k' _ hk => absurd hk (Nat.not_lt_zero k')⟩
    · next hr =>
      obtain ⟨k, rfl, hk, hrec, hmin⟩ := ih h
      refine ⟨k + 1, by omega, hk, hrec, fun k' r' hk' hr' => ?_⟩
      cases k' with
      | zero => cases hr'; simpa using hr
      | succ n => exact hmin n r' (by omega) hr'

/-- The scan answers nothing exactly when no row recognises the word. -/
theorem matchFrom_none {t : List Row} {w : Word} {base : Nat} :
    matchFrom base t w = none ↔ ∀ r ∈ t, r.recognises w = false := by
  induction t generalizing base with
  | nil => simp [matchFrom]
  | cons r0 rs ih =>
    unfold matchFrom
    split
    · next hr => simp [hr]
    · next hr => simp [ih, hr]

/-- The sentinel row recognises every word (30_encoding R87). -/
@[simp] theorem sentinel_recognises (w : Word) : Row.sentinel.recognises w = true := by
  simp [Row.recognises, Row.sentinel]

/-- An admitted table holds the sentinel row. -/
theorem sentinel_mem_of_tableAdmitted {t : List Row} (h : tableAdmitted t = true) : Row.sentinel ∈ t := by
  induction t with
  | nil => cases h
  | cons r rs ih =>
    cases rs with
    | nil =>
      have hr : r = Row.sentinel := by simpa [tableAdmitted] using h
      simp [hr]
    | cons r' rs' =>
      simp only [tableAdmitted, Bool.and_eq_true] at h
      exact List.mem_cons_of_mem _ (ih h.2)

/-- The little-endian word gives each byte back (20_memory R42). -/
theorem assembleWord_eq_place (b0 b1 b2 b3 : Byte) :
    assembleWord b0 b1 b2 b3 = (place b0 0 ||| place b1 8 ||| place b2 16 ||| place b3 24) := by
  simp [assembleWord, place]

end Sys2Proof
end

