-- ==== Sys2Proof/Laws/State.lean ====
section
/-!
SUPPORT. One lemma per field per update of the state, so that no later proof unfolds a record update.
-/
namespace Sys2Proof.Machine

@[simp] theorem State.setOut_consts (s : State) (o : Outputs) : (s.setOut o).consts = s.consts := rfl
@[simp] theorem State.setOut_inp (s : State) (o : Outputs) : (s.setOut o).inp = s.inp := rfl
@[simp] theorem State.setOut_out (s : State) (o : Outputs) : (s.setOut o).out = o := rfl
@[simp] theorem State.setOut_setOut (s : State) (o o' : Outputs) : (s.setOut o).setOut o' = s.setOut o' := rfl

@[simp] theorem State.report_consts (s : State) (r : RowRef) (m : Option Text) (rec : Record) (t : Text) :
    (s.report r m rec t).consts = s.consts := rfl
@[simp] theorem State.report_inp (s : State) (r : RowRef) (m : Option Text) (rec : Record) (t : Text) :
    (s.report r m rec t).inp = s.inp := rfl
@[simp] theorem State.report_out (s : State) (r : RowRef) (m : Option Text) (rec : Record) (t : Text) :
    (s.report r m rec t).out = Outputs.decoded s.consts.cap r m rec t := rfl

@[simp] theorem State.signalInsufficient_consts (s : State) : s.signalInsufficient.consts = s.consts := rfl
@[simp] theorem State.signalInsufficient_inp (s : State) : s.signalInsufficient.inp = s.inp := rfl
@[simp] theorem State.signalInsufficient_out (s : State) : s.signalInsufficient.out = Outputs.insufficient := rfl

@[simp] theorem State.present_consts (s : State) (b : List Byte) (pc : Addr) : (s.present b pc).consts = s.consts := rfl
@[simp] theorem State.present_out (s : State) (b : List Byte) (pc : Addr) : (s.present b pc).out = s.out := rfl
@[simp] theorem State.present_inLen (s : State) (b : List Byte) (pc : Addr) :
    (s.present b pc).inp.inLen = b.length := rfl
@[simp] theorem State.present_pc (s : State) (b : List Byte) (pc : Addr) : (s.present b pc).inp.pc = pc := rfl

@[simp] theorem State.withFetchWord_consts (s : State) (n w : Nat) : (s.withFetchWord n w).consts = s.consts := rfl
@[simp] theorem State.withFetchWord_out (s : State) (n w : Nat) : (s.withFetchWord n w).out = s.out := rfl
@[simp] theorem State.withFetchWord_inLen (s : State) (n w : Nat) : (s.withFetchWord n w).inp.inLen = 4 := rfl
@[simp] theorem State.withFetchWord_pc (s : State) (n w : Nat) : (s.withFetchWord n w).inp.pc = s.inp.pc := rfl

@[simp] theorem Outputs.decoded_consumed (c : Nat) (r : RowRef) (m : Option Text) (rec : Record) (t : Text) :
    (Outputs.decoded c r m rec t).consumed = 4 := rfl
@[simp] theorem Outputs.decoded_idx (c : Nat) (r : RowRef) (m : Option Text) (rec : Record) (t : Text) :
    (Outputs.decoded c r m rec t).idx = some r.idx := rfl
@[simp] theorem Outputs.decoded_shape (c : Nat) (r : RowRef) (m : Option Text) (rec : Record) (t : Text) :
    (Outputs.decoded c r m rec t).shape = some rec.shape := rfl
@[simp] theorem Outputs.decoded_quirks (c : Nat) (r : RowRef) (m : Option Text) (rec : Record) (t : Text) :
    (Outputs.decoded c r m rec t).quirks = some r.quirks := rfl
@[simp] theorem Outputs.decoded_mnemonic (c : Nat) (r : RowRef) (m : Option Text) (rec : Record) (t : Text) :
    (Outputs.decoded c r m rec t).mnemonic = m := rfl
@[simp] theorem Outputs.decoded_record (c : Nat) (r : RowRef) (m : Option Text) (rec : Record) (t : Text) :
    (Outputs.decoded c r m rec t).record = some rec := rfl
@[simp] theorem Outputs.decoded_text (c : Nat) (r : RowRef) (m : Option Text) (rec : Record) (t : Text) :
    (Outputs.decoded c r m rec t).text = t.take c := rfl
@[simp] theorem Outputs.decoded_textLen (c : Nat) (r : RowRef) (m : Option Text) (rec : Record) (t : Text) :
    (Outputs.decoded c r m rec t).textLen = min c t.length := rfl

end Sys2Proof.Machine
end

