-- ==== Sys2Proof/Laws/Ops.lean ====
section
/-!
SUPPORT. What each shared operation of the machine can do, said once: the refusal of the constants, the span the decoder
sees, every meaning, and one step.
-/
namespace Sys2Proof.Machine

/-- No refusal exactly when the constants are admitted. -/
theorem State.refusal?_eq_none (s : State) : s.refusal? = none ↔ s.consts.admitted = true := by
  unfold State.refusal? Constants.admitted
  cases tableAdmitted s.consts.itable <;> cases s.consts.namesAdmitted <;> simp
  omega

/-- With at least four bytes the decoder sees the four of the ports. -/
theorem Inputs.span_of_four_le {x : Inputs} (h : 4 ≤ x.inLen) : x.span = [x.b0, x.b1, x.b2, x.b3] :=
  List.take_of_length_le (by simpa using h)

/-- With fewer than four bytes the decoder sees fewer than four. -/
theorem Inputs.span_length_lt {x : Inputs} (h : x.inLen < 4) : x.span.length < 4 := by
  simp [Inputs.span]
  omega

/-- Fewer than four bytes are rejected as insufficient input. -/
theorem decode_short (t : List Row) {span : List Byte} (h : span.length < 4) :
    decode t span = .error .insufficientInput := by
  match span, h with
  | [], _ => rfl
  | [_], _ => rfl
  | [_, _], _ => rfl
  | [_, _, _], _ => rfl

/-- The decoder gives an instruction only for the row MATCH gives for the word of the first four bytes. -/
theorem decode_ok {t : List Row} {span : List Byte} {i : Instr} (h : decode t span = .ok i) :
    ∃ b0 b1 b2 b3 rest idx row, span = b0 :: b1 :: b2 :: b3 :: rest ∧
      matchWord t (assembleWord b0 b1 b2 b3) = some (idx, row) ∧ i = Instr.ofRow idx row (assembleWord b0 b1 b2 b3) := by
  unfold decode at h
  split at h
  · next b0 b1 b2 b3 rest =>
    split at h
    · next idx row hm => exact ⟨b0, b1, b2, b3, rest, idx, row, rfl, hm, by cases h; rfl⟩
    · cases h
  · cases h

/-- The mnemonic an instruction puts on its port: its row's, and none for the sentinel (30_encoding R87). -/
def mnemonicPort : Instr → Option Text
  | .sentinel _ _ => none
  | i => some i.ref.mnemonic

/-- Every meaning answers a next state that reports the instruction's row and record with some text: no instruction
stops, and nothing but the output ports changes. -/
theorem exec_reports (i : Instr) (s : State) :
    ∃ full, exec i s = .next (s.report i.ref (mnemonicPort i) i.record full) := by
  cases i <;> exact ⟨_, rfl⟩

/-- One step, said once: if it answers a next state, the constants are admitted, and the machine either reported
insufficient input or ran the instruction it decoded. -/
theorem step_cases {s t : State} (h : step s = .next t) :
    s.consts.admitted = true ∧
      ((s.inp.inLen < 4 ∧ t = s.signalInsufficient) ∨
        (4 ≤ s.inp.inLen ∧ ∃ i, s.fetch = .ok i ∧ exec i s = .next t)) := by
  unfold step at h
  split at h
  · cases h
  · next hr =>
    refine ⟨(State.refusal?_eq_none s).1 hr, ?_⟩
    by_cases hl : s.inp.inLen < 4
    · left
      have hf : s.fetch = .error .insufficientInput := decode_short _ (Inputs.span_length_lt hl)
      rw [hf] at h
      cases h
      exact ⟨hl, rfl⟩
    · right
      refine ⟨Nat.le_of_not_lt hl, ?_⟩
      split at h
      · next i hi => exact ⟨i, hi, h⟩
      · next r hr' =>
        unfold State.fetch at hr'
        rw [Inputs.span_of_four_le (Nat.le_of_not_lt hl)] at hr'
        cases r with
        | noRowMatches => cases h
        | insufficientInput =>
          unfold decode at hr'
          split at hr'
          · split at hr' <;> cases hr'
          · next hne => exact absurd rfl (hne _ _ _ _ _)

/-- With admitted constants and an instruction decoded, a step is that instruction's meaning. -/
theorem step_of_fetch {s : State} {i : Instr} (ha : s.consts.admitted = true) (hf : s.fetch = .ok i) :
    step s = exec i s := by
  unfold step
  rw [(State.refusal?_eq_none s).2 ha, hf]

end Sys2Proof.Machine
end

