-- ==== Sys2Proof/Laws/PerInstr.lean ====
section
/-!
SUPPORT. The per-instruction family `EncodedFields`: DECODE, under an instruction's shape, of the word the encoder writes
for it gives back the instruction's record, every field at every value (spec/41_field_decoder.md R138).
-/
namespace Sys2Proof.Laws.EncodedFields

/-- The fields of the encoded word are the instruction's fields. -/
def Statement (i : Instr) : Prop := decodeFields (encode i) i.shape = i.record

theorem rr (row : RowRef) (opcode : BitVec 6) (selector : BitVec 16) (rj rd : RegIdx) :
    Statement (.rr row opcode selector rj rd) := by
  simp (disch := omega) only [Statement, encode, Instr.record, Instr.shape, Record.shape, Record.word,
    decodeFields, opcodeOf, rdOf, rjOf, slice_or, slice_place, slice_place_below, slice_place_above,
    BitVec.or_zero, BitVec.zero_or]

theorem rrr (row : RowRef) (opcode : BitVec 6) (selector : BitVec 11) (rk rj rd : RegIdx) :
    Statement (.rrr row opcode selector rk rj rd) := by
  simp (disch := omega) only [Statement, encode, Instr.record, Instr.shape, Record.shape, Record.word,
    decodeFields, opcodeOf, rdOf, rjOf, rkOf, slice_or, slice_place, slice_place_below, slice_place_above,
    BitVec.or_zero, BitVec.zero_or]

theorem ffff (row : RowRef) (opcode : BitVec 6) (selector : BitVec 6) (ra rk rj rd : RegIdx) :
    Statement (.ffff row opcode selector ra rk rj rd) := by
  simp (disch := omega) only [Statement, encode, Instr.record, Instr.shape, Record.shape, Record.word,
    decodeFields, opcodeOf, rdOf, rjOf, rkOf, raOf, slice_or, slice_place, slice_place_below, slice_place_above,
    BitVec.or_zero, BitVec.zero_or]

theorem rri6 (row : RowRef) (opcode : BitVec 6) (selector : BitVec 10) (imm : BitVec 6) (rj rd : RegIdx) :
    Statement (.rri6 row opcode selector imm rj rd) := by
  simp (disch := omega) only [Statement, encode, Instr.record, Instr.shape, Record.shape, Record.word,
    decodeFields, opcodeOf, rdOf, rjOf, slice_or, slice_place, slice_place_below, slice_place_above,
    BitVec.or_zero, BitVec.zero_or]

theorem rri8 (row : RowRef) (opcode : BitVec 6) (selector : BitVec 8) (imm : BitVec 8) (rj rd : RegIdx) :
    Statement (.rri8 row opcode selector imm rj rd) := by
  simp (disch := omega) only [Statement, encode, Instr.record, Instr.shape, Record.shape, Record.word,
    decodeFields, opcodeOf, rdOf, rjOf, slice_or, slice_place, slice_place_below, slice_place_above,
    BitVec.or_zero, BitVec.zero_or]

theorem rri12 (row : RowRef) (opcode : BitVec 6) (selector : BitVec 4) (imm : BitVec 12) (rj rd : RegIdx) :
    Statement (.rri12 row opcode selector imm rj rd) := by
  simp (disch := omega) only [Statement, encode, Instr.record, Instr.shape, Record.shape, Record.word,
    decodeFields, opcodeOf, rdOf, rjOf, slice_or, slice_place, slice_place_below, slice_place_above,
    BitVec.or_zero, BitVec.zero_or]

theorem rri6i6 (row : RowRef) (opcode : BitVec 6) (selector : BitVec 4) (immB immA : BitVec 6) (rj rd : RegIdx)
    :
    Statement (.rri6i6 row opcode selector immB immA rj rd) := by
  simp (disch := omega) only [Statement, encode, Instr.record, Instr.shape, Record.shape, Record.word,
    decodeFields, opcodeOf, rdOf, rjOf, slice_or, slice_place, slice_place_below, slice_place_above,
    BitVec.or_zero, BitVec.zero_or]

theorem rri14 (row : RowRef) (opcode : BitVec 6) (selector : BitVec 2) (imm : BitVec 14) (rj rd : RegIdx) :
    Statement (.rri14 row opcode selector imm rj rd) := by
  simp (disch := omega) only [Statement, encode, Instr.record, Instr.shape, Record.shape, Record.word,
    decodeFields, opcodeOf, rdOf, rjOf, slice_or, slice_place, slice_place_below, slice_place_above,
    BitVec.or_zero, BitVec.zero_or]

theorem rri16 (row : RowRef) (opcode : BitVec 6) (imm : BitVec 16) (rj rd : RegIdx) :
    Statement (.rri16 row opcode imm rj rd) := by
  simp (disch := omega) only [Statement, encode, Instr.record, Instr.shape, Record.shape, Record.word,
    decodeFields, opcodeOf, rdOf, rjOf, slice_or, slice_place, slice_place_below, slice_place_above,
    BitVec.or_zero, BitVec.zero_or]

theorem aui20 (row : RowRef) (opcode : BitVec 6) (selector : BitVec 1) (imm : BitVec 20) (rd : RegIdx) :
    Statement (.aui20 row opcode selector imm rd) := by
  simp (disch := omega) only [Statement, encode, Instr.record, Instr.shape, Record.shape, Record.word,
    decodeFields, opcodeOf, rdOf, slice_or, slice_place, slice_place_below, slice_place_above, BitVec.or_zero,
    BitVec.zero_or]

theorem ri21 (row : RowRef) (opcode : BitVec 6) (imm : BitVec 21) (rj : RegIdx) :
    Statement (.ri21 row opcode imm rj) := by
  simp (disch := omega) only [Statement, encode, Instr.record, Instr.shape, Record.shape, Record.word,
    decodeFields, opcodeOf, rjOf, slice_or, slice_place, slice_place_below, slice_place_above, BitVec.or_zero,
    BitVec.zero_or, splitImm_slices]

theorem i25 (row : RowRef) (opcode : BitVec 6) (imm : BitVec 25) (ignored : BitVec 1) :
    Statement (.i25 row opcode imm ignored) := by
  simp (disch := omega) only [Statement, encode, Instr.record, Instr.ignored, Instr.shape, Record.shape,
    Record.word, decodeFields, opcodeOf, slice_or, slice_place, slice_place_below, slice_place_above,
    BitVec.or_zero, BitVec.zero_or, splitImm_slices]

theorem unknown (row : RowRef) (raw : Word) : Statement (.unknown row raw) := rfl

theorem add (idx : Nat) (quirks : Quirks) (opcode : BitVec 6) (selector : BitVec 11) (rk rj rd : RegIdx) :
    Statement (.add idx quirks opcode selector rk rj rd) := by
  simp (disch := omega) only [Statement, encode, Instr.record, Instr.shape, Record.shape, Record.word,
    decodeFields, opcodeOf, rdOf, rjOf, rkOf, slice_or, slice_place, slice_place_below, slice_place_above,
    BitVec.or_zero, BitVec.zero_or]

theorem lw (idx : Nat) (quirks : Quirks) (opcode : BitVec 6) (selector : BitVec 4) (imm : BitVec 12) (rj rd :
    RegIdx) :
    Statement (.lw idx quirks opcode selector imm rj rd) := by
  simp (disch := omega) only [Statement, encode, Instr.record, Instr.shape, Record.shape, Record.word,
    decodeFields, opcodeOf, rdOf, rjOf, slice_or, slice_place, slice_place_below, slice_place_above,
    BitVec.or_zero, BitVec.zero_or]

theorem j (idx : Nat) (quirks : Quirks) (opcode : BitVec 6) (imm : BitVec 25) (ignored : BitVec 1) :
    Statement (.j idx quirks opcode imm ignored) := by
  simp (disch := omega) only [Statement, encode, Instr.record, Instr.ignored, Instr.shape, Record.shape,
    Record.word, decodeFields, opcodeOf, slice_or, slice_place, slice_place_below, slice_place_above,
    BitVec.or_zero, BitVec.zero_or, splitImm_slices]

theorem slliw (idx : Nat) (quirks : Quirks) (opcode : BitVec 6) (selector : BitVec 10) (imm : BitVec 6) (rj rd :
    RegIdx) :
    Statement (.slliw idx quirks opcode selector imm rj rd) := by
  simp (disch := omega) only [Statement, encode, Instr.record, Instr.shape, Record.shape, Record.word,
    decodeFields, opcodeOf, rdOf, rjOf, slice_or, slice_place, slice_place_below, slice_place_above,
    BitVec.or_zero, BitVec.zero_or]

theorem sentinel (idx : Nat) (raw : Word) : Statement (.sentinel idx raw) := rfl

end Sys2Proof.Laws.EncodedFields
end

