-- ==== Sys2Proof/Laws/Text.lean ====
section
/-!
SUPPORT. The shape of the number texts: what characters they hold, and that none is empty.
-/
namespace Sys2Proof.Machine

/-- A digit below 16 is a printable character. -/
theorem charPrintable_digitChar {d : Nat} (h : d < 16) : charPrintable (digitChar d) = true := by
  have : ∀ k : Fin 16, charPrintable (digitChar k.val) = true := by decide
  exact this ⟨d, h⟩

/-- The digits before `acc` are printable when `acc` is, in a base of 2 to 16. -/
theorem textPrintable_digitsBefore {b : Nat} (h0 : 0 < b) (h16 : b ≤ 16) :
    ∀ fuel n acc, textPrintable acc = true → textPrintable (digitsBefore b fuel n acc) = true := by
  intro fuel
  induction fuel with
  | zero => intro n acc h; exact h
  | succ f ih =>
    intro n acc h
    have hd : charPrintable (digitChar (n % b)) = true :=
      charPrintable_digitChar (Nat.lt_of_lt_of_le (Nat.mod_lt n h0) h16)
    have hc : textPrintable (digitChar (n % b) :: acc) = true := by
      simp only [textPrintable, List.all_cons, hd, Bool.true_and]
      exact h
    unfold digitsBefore
    split
    · exact hc
    · exact ih _ _ hc

/-- The digits of a number are printable. -/
theorem textPrintable_digits {b n : Nat} (h0 : 0 < b) (h16 : b ≤ 16) : textPrintable (digits b n) = true :=
  textPrintable_digitsBefore h0 h16 _ _ _ rfl

/-- The text grows in front of `acc`. -/
theorem digitsBefore_ne_nil {b : Nat} : ∀ fuel n acc, acc ≠ [] → digitsBefore b fuel n acc ≠ [] := by
  intro fuel
  induction fuel with
  | zero => intro n acc h; exact h
  | succ f ih =>
    intro n acc _
    unfold digitsBefore
    split
    · simp
    · exact ih _ _ (by simp)

/-- A number has a digit. -/
theorem digits_ne_nil (b n : Nat) : digits b n ≠ [] := by
  unfold digits digitsBefore
  split
  · simp
  · exact digitsBefore_ne_nil _ _ _ (by simp)

/-- A text put together from printable texts is printable. -/
theorem textPrintable_append (a b : Text) : textPrintable (a ++ b) = (textPrintable a && textPrintable b) := by
  simp [textPrintable]

end Sys2Proof.Machine
end

