-- ==== Sys2Proof/Tests/Slice0.lean ====
section
/-!
SUPPORT. Tests of our own. Expected results are worked out in spec/ (mostly spec/95_test_vectors.md, the section is
named), words are written out bit by bit from the field tables of spec/30_encoding.md R64 to R76. Then one witness for every
obligation that has hypotheses.
-/
namespace Sys2Proof.Tests

open Sys2Proof Sys2Proof.Machine

/-! ## Helpers -/

/-- The state after reset with a word on its input ports, `pc = 0x1000`: the setting of the spec's vectors. -/
def at0x1000 (w : Nat) : State := (State.reset.present [] 0x1000).withFetchWord 32 w

/-- The text of a step that answers a next state. -/
def textOf (o : Host.Outcome State Fault Refusal) : Option Text :=
  match o with
  | .next t => some t.out.text
  | _ => none

/-- The reason of a step that is refused. -/
def refusalOf (o : Host.Outcome State Fault Refusal) : Option Refusal :=
  match o with
  | .refused r => some r
  | _ => none

/-- The decoder reads the word as the instruction, which is well-formed, and the encoder gives the word back. -/
def readsAs (w : Nat) (i : Instr) : Bool :=
  decodeTableWord 32 w == some i && i.wf && (encode i).toNat == w && i.placedIn Config.tvTable

/-- A state whose table is the given one, with one word on its ports. -/
def withTable (t : List Row) (w : Nat) : State :=
  let s := at0x1000 w
  { s with consts := { s.consts with itable := t } }

/-- A table of one row and the sentinel. -/
def oneRow (r : Row) : List Row := [r, Row.sentinel]

/-! ## Decoding: words written out from the encodings (30_encoding R64 to R76) -/

theorem test_decode_rr : readsAs 0b000000_0100010100100101_00100_00101
    (.rr ⟨6, txt "mv.f", { fprD := true, fprJ := true }⟩ 0 0x4525 4 5) = true := by decide

theorem test_decode_rrr : readsAs 0b000000_01000000001_00010_00001_00000
    (.rrr ⟨8, txt "fadd", { fprD := true, fprJ := true, fprK := true }⟩ 0 0x201 2 1 0) = true := by decide

theorem test_decode_ffff : readsAs 0b000010_000001_00011_00010_00001_00000
    (.ffff ⟨10, txt "fmadd", { fprD := true, fprJ := true, fprK := true }⟩ 2 1 3 2 1 0) = true := by decide

theorem test_decode_rri6 : readsAs 0b000000_0001000001_111111_00101_00100
    (.rri6 ⟨4, txt "slli", {}⟩ 0 0x041 63 5 4) = true := by decide

theorem test_decode_rri8 : readsAs 0b000011_00000000_11111111_00101_00100
    (.rri8 ⟨11, txt "i8op", {}⟩ 3 0 255 5 4) = true := by decide

theorem test_decode_rri12 : readsAs 0b000000_1010_111111111111_00011_00100
    (.rri12 ⟨12, txt "addi", {}⟩ 0 10 0xFFF 3 4) = true := by decide

theorem test_decode_rri6i6 : readsAs 0b000000_0001_100111_101000_00101_00100
    (.rri6i6 ⟨5, txt "bstrw", { minus32 := true }⟩ 0 1 39 40 5 4) = true := by decide

theorem test_decode_rri14 : readsAs 0b001001_00_11111111111111_00011_00100
    (.rri14 ⟨17, txt "ldptr", { ldst := true, shl2 := true }⟩ 9 0 0x3FFF 3 4) = true := by decide

theorem test_decode_rri16 : readsAs 0b010110_1111111111111111_00100_00101
    (.rri16 ⟨22, txt "beq", { jump := true }⟩ 22 0xFFFF 4 5) = true := by decide

theorem test_decode_aui20 : readsAs 0b000101_0_00000000000000000001_00100
    (.aui20 ⟨18, txt "lu12i", {}⟩ 5 0 1 4) = true := by decide

theorem test_decode_ri21 : readsAs 0b010000_0000000000000010_00100_00000
    (.ri21 ⟨20, txt "beqz", { jump := true }⟩ 16 2 4) = true := by decide

/-- The low five bits of the word are the high five of the immediate (95_test_vectors section 3.2). -/
theorem test_decode_ri21_high_part : readsAs 0b010000_0000000000000000_00100_10000
    (.ri21 ⟨20, txt "beqz", { jump := true }⟩ 16 0x100000 4) = true := by decide

/-- A row of shape `I25` that is not row `j`; bit 9 is kept beside the fields. -/
theorem test_decode_i25 :
    decode (oneRow ⟨txt "b", .i25, 0x50000000, 0xFC000000, { hex := true }⟩)
        (wordBytes 0b010100_0000000000000100_1_100000000) =
      .ok (.i25 ⟨0, txt "b", { hex := true }⟩ 20 0x1000004 1) := by decide

/-- A row of shape `UNKNOWN` before the last stands in no admitted table, but the decoder is total on any rows. -/
theorem test_decode_unknown :
    decode [⟨txt "raw", .unknown, 0, 0, {}⟩] (wordBytes 0xDEADBEEF) = .ok (.unknown ⟨0, txt "raw", {}⟩ 0xDEADBEEF) ∧
      tableAdmitted [⟨txt "raw", .unknown, 0, 0, {}⟩] = false := by decide

theorem test_decode_add : readsAs 0b000000_00000100001_00010_00001_00000 (.add 2 {} 0 0x021 2 1 0) = true := by decide

theorem test_decode_lw : readsAs 0b001010_0010_000000000001_00011_00100
    (.lw 14 { ldst := true } 10 2 1 3 4) = true := by decide

theorem test_decode_j : readsAs 0b010100_0000000000000100_1_000000000 (.j 23 { jump := true } 20 4 1) = true := by
  decide

theorem test_decode_slliw : readsAs 0b000000_0001000000_101000_00101_00100
    (.slliw 3 { minus32 := true } 0 0x040 40 5 4) = true := by decide

theorem test_decode_sentinel : readsAs 0b11011110101011011011111011101111 (.sentinel 25 0xDEADBEEF) = true := by decide

/-- Three bytes give no instruction; a list of rows without a sentinel may recognise nothing. -/
theorem test_decode_rejects : decode Config.tvTable [0x20, 0x88, 0x10] = .error .insufficientInput ∧
    decode [] [0x20, 0x88, 0x10, 0x00] = .error .noRowMatches := by decide

/-- MATCH: the first of two rows that recognise a word wins, and the other one if the rows are exchanged
(95_test_vectors sections 3.1 and 4, P4). -/
theorem test_match_first_row_wins :
    (matchWord Config.tvTable 0x4C000020).map (·.1) = some 0 ∧
    (matchWord Config.tvTable 0x4C000420).map (·.1) = some 1 ∧
    (matchWord [⟨txt "jirl", .rri16, 0x4C000000, 0xFC000000, {}⟩, ⟨txt "ret", .rri16, 0x4C000020, 0xFFFFFFFF, {}⟩,
      Row.sentinel] 0x4C000020).map (·.2.mnemonic) = some (txt "jirl") := by decide

/-! ## Ill-formed terms, each refused by a check of `Instr.wf` -/

theorem test_wf_refuses_empty_mnemonic : (Instr.rr ⟨0, [], {}⟩ 0 0 0 0).wf = false := by decide

theorem test_wf_refuses_unprintable_mnemonic : (Instr.ri21 ⟨0, ['a', Char.ofNat 10], {}⟩ 0 0 0).wf = false := by decide

/-- A generic term may not stand for a shown row. -/
theorem test_wf_refuses_generic_shown_row :
    (Instr.rrr ⟨2, txt "add", {}⟩ 0 0x021 2 1 0).wf = false ∧
    (Instr.rri12 ⟨14, txt "lw", { ldst := true }⟩ 10 2 1 3 4).wf = false ∧
    (Instr.i25 ⟨23, txt "j", { jump := true }⟩ 20 4 0).wf = false ∧
    (Instr.rri6 ⟨3, txt "slliw", { minus32 := true }⟩ 0 0x040 40 5 4).wf = false := by decide

/-- A shown row may not have quirks that its rule excludes. -/
theorem test_wf_refuses_unsettled_quirks :
    (Instr.add 2 { fprD := true } 0 0x021 2 1 0).wf = false ∧ (Instr.lw 14 {} 10 2 1 3 4).wf = false ∧
    (Instr.j 23 {} 20 4 0).wf = false ∧ (Instr.slliw 3 { minus32 := true, hex := true } 0 0x040 40 5 4).wf = false := by
  decide

theorem test_wf_refuses_every_mnemonic_field :
    (Instr.ffff ⟨0, [], {}⟩ 0 0 0 0 0 0).wf = false ∧ (Instr.rri8 ⟨0, [], {}⟩ 0 0 0 0 0).wf = false ∧
    (Instr.rri6i6 ⟨0, [], {}⟩ 0 0 0 0 0 0).wf = false ∧ (Instr.rri14 ⟨0, [], {}⟩ 0 0 0 0 0).wf = false ∧
    (Instr.rri16 ⟨0, [], {}⟩ 0 0 0 0).wf = false ∧ (Instr.aui20 ⟨0, [], {}⟩ 0 0 0 0).wf = false ∧
    (Instr.unknown ⟨0, [], {}⟩ 0).wf = false := by decide

/-! ## Constants that are not admitted (00_scope R9; 10_state R23, R24; 70_reset R222) -/

theorem test_reset_constants_admitted : State.reset.consts.admitted = true := by decide +kernel

/-- The table of the spec's vectors passes every check that a candidate of the repository's table may be put to. -/
theorem test_tv_table_is_candidate : candidateTable Config.tvTable = true ∧ Config.constants.nRows = 25 := by
  decide +kernel

/-- Each constraint (a) to (d) of 43_table_rows R185 can fail, alone: the table without its two-immediate row, with
`SHL2` beside `MINUS32` in a row, without its `!` rows, and without rows of shape `RI21` or rows using `SHL2`. -/
theorem test_candidate_constraints :
    hasBiasedTwoImmediateRow (Config.tvTable.filter fun r => r.shape != .rri6i6) = false ∧
    noUntestedCombination (⟨txt "x", .rri6, 0, 0, { minus32 := true, shl2 := true }⟩ :: Config.tvTable) = false ∧
    hasProvisionalMnemonic (Config.tvTable.filter fun r => r.mnemonic.head? != some '!') = false ∧
    usesPresumed (Config.tvTable.filter fun r => r.shape != .ri21) = false ∧
    usesPresumed (Config.tvTable.filter fun r => !r.quirks.shl2) = false := by decide +kernel

theorem test_refuses_match_outside_mask :
    refusalOf (step (withTable (oneRow ⟨txt "x", .rr, 0x00000001, 0xFFFFFFFE, {}⟩) 0)) = some .tableNotAdmitted := by
  decide +kernel

theorem test_refuses_table_without_sentinel :
    refusalOf (step (withTable Config.tvRows 0)) = some .tableNotAdmitted ∧
      refusalOf (step (withTable [] 0)) = some .tableNotAdmitted := by decide +kernel

theorem test_refuses_unknown_before_last :
    refusalOf (step (withTable (oneRow ⟨txt "x", .unknown, 0, 0, {}⟩) 0)) = some .tableNotAdmitted ∧
      refusalOf (step (withTable (oneRow Row.sentinel) 0)) = some .tableNotAdmitted := by decide +kernel

theorem test_refuses_empty_mnemonic :
    refusalOf (step (withTable (oneRow ⟨[], .rr, 0, 0, {}⟩) 0)) = some .tableNotAdmitted := by decide +kernel

/-- The table of no row but the sentinel is admitted: it recognises nothing. -/
theorem test_sentinel_alone : textOf (step (withTable [Row.sentinel] 0x00108820)) = some (txt "??? 00108820") := by
  decide +kernel

/-- A register name with a comma, and one of the five stated names replaced. -/
theorem test_refuses_names :
    let c1 : Constants := { Config.constants with fprName := Config.fprName.set 7 (txt "f,7") }
    let c2 : Constants := { Config.constants with gprName := Config.gprName.set 2 (txt "tp") }
    refusalOf (step { State.reset with consts := c1 }) = some .namesNotAdmitted ∧
      refusalOf (step { State.reset with consts := c2 }) = some .namesNotAdmitted := by decide +kernel

theorem test_refuses_capacity_zero :
    refusalOf (step { State.reset with consts := { Config.constants with cap := 0 } }) = some .capacityZero := by
  decide +kernel

/-! ## One step of each instruction (95_test_vectors section 3.5 unless said) -/

theorem test_step_rr : textOf (step (at0x1000 0x0114A485)) = some (txt "cvt.fx f5, a0") := by decide +kernel

theorem test_step_rrr : textOf (step (at0x1000 0x01008820)) = some (txt "fadd f0, f1, f2") := by decide +kernel

theorem test_step_ffff : textOf (step (at0x1000 0x0D018820)) = some (txt "!fsel f0, f1, f2, f3") := by decide +kernel

theorem test_step_rri6 : textOf (step (at0x1000 0x0041FCA4)) = some (txt "slli a0, r5, 63") := by decide +kernel

theorem test_step_rri8 : textOf (step (at0x1000 0x0C03FCA4)) = some (txt "i8op a0, r5, 255") := by decide +kernel

theorem test_step_rri12 : textOf (step (at0x1000 0x02A00064)) = some (txt "addi a0, sp, -2048") := by decide +kernel

theorem test_step_rri12_hex : textOf (step (at0x1000 0x03BFFC64)) = some (txt "ori a0, sp, 0xfff") := by decide +kernel

theorem test_step_rri6i6 : textOf (step (at0x1000 0x0067A0A4)) = some (txt "bstrw a0, r5, 8, 7") := by decide +kernel

theorem test_step_rri14 : textOf (step (at0x1000 0x24FFFC64)) = some (txt "ldptr a0, -4(sp)") := by decide +kernel

theorem test_step_rri16_jump : textOf (step (at0x1000 0x5BFFFC85)) = some (txt "beq r5, a0, 0xffc") := by decide +kernel

theorem test_step_aui20 : textOf (step (at0x1000 0x15FFFFE4)) = some (txt "lu12i a0, 1048575") := by decide +kernel

theorem test_step_ri21 : textOf (step (at0x1000 0x40000090)) = some (txt "beqz a0, 0xffffffffffc01000") := by
  decide +kernel

/-- Section 3.4: `I25` with `HEX` and without `JUMP`. -/
theorem test_step_i25 :
    textOf (step (withTable (oneRow ⟨txt "b", .i25, 0x50000000, 0xFC000000, { hex := true }⟩) 0x53FFFDFF)) =
      some (txt "b 0x1ffffff") := by decide +kernel

/-- The generic shape `UNKNOWN` (42_renderer R163): its meaning, applied directly. -/
theorem test_exec_unknown :
    textOf (exec (.unknown ⟨0, txt "raw", {}⟩ 0xDEADBEEF) State.reset) = some (txt "??? deadbeef") := by decide +kernel

theorem test_step_add : textOf (step (at0x1000 0x0010FFFF)) = some (txt "add r31, r31, r31") := by decide +kernel

theorem test_step_lw : textOf (step (at0x1000 0x28A00064)) = some (txt "lw a0, -2048(sp)") := by decide +kernel

theorem test_step_j : textOf (step (at0x1000 0x50001200)) = some (txt "j 0x1010") := by decide +kernel

theorem test_step_slliw : textOf (step (at0x1000 0x004080A4)) = some (txt "slliw a0, r5, 0") := by decide +kernel

theorem test_step_sentinel : textOf (step (at0x1000 0x00000000)) = some (txt "??? 00000000") := by decide +kernel

/-- Truncation (section 3.6): the text stops at the capacity, in the middle of an operand. -/
theorem test_step_truncates :
    textOf (step { at0x1000 0x00108820 with consts := { Config.constants with cap := 8 } }) =
      some (txt "add zero") := by
  decide +kernel

/-- The quirk byte of row 16 of the table, `LDST` and `FPR_D`, and of row 9 (section 2). -/
theorem test_quirk_codes :
    Quirks.code { ldst := true, fprD := true } = 0x90 ∧
      Quirks.code { fprD := true, fprJ := true, fprK := true } = 0x70 := by decide +kernel

/-- Section 3.4: the immediate policy on combined quirks. -/
theorem test_imm_combined :
    imm 5 6 { minus32 := true, hex := true } 0x1000 false false = txt "0xffffffe5" ∧
    imm 5 6 { minus32 := true, shl2 := true } 0x1000 false false = txt "-108" ∧
    imm 4 25 { jump := true, shl2 := true } 0x1000 false true = txt "0x1040" ∧
    imm 0x1FFFFFF 25 { jump := true } 0 false true = txt "0xfffffffffffffffc" := by decide +kernel

/-- Section 3.3: sign conversion at the scaled widths 23 and 27. -/
theorem test_signed :
    signedN 23 0x400000 = -4194304 ∧ signedN 23 0x3FFFFF = 4194303 ∧ signedN 27 0x7FFFFFF = -1 := by decide +kernel

/-! ## Witnesses: the hypotheses of the obligations can be met -/

theorem witness_AddShowsGeneralRegisters : candidateTable Config.tvTable = true := by decide +kernel

/-- The settled quirks of the shown rows, and one bitset each that they exclude. -/
theorem witness_shown_rows_well_formed :
    (Instr.wf (.add 2 {} 0 0x021 2 1 0) = true ∧ Instr.wf (.add 2 { fprK := true } 0 0x021 2 1 0) = false) ∧
    (Instr.wf (.lw 14 { ldst := true } 10 2 1 3 4) = true ∧
      Instr.wf (.lw 14 { ldst := true, hex := true } 10 2 1 3 4) = false) ∧
    (Instr.wf (.j 23 { jump := true } 20 4 1) = true ∧
      Instr.wf (.j 23 { jump := true, shl2 := true } 20 4 1) = false) ∧
    (Instr.wf (.slliw 3 { minus32 := true, fprJ := true } 0 0x040 40 5 4) = true ∧
      Instr.wf (.slliw 3 { minus32 := true, shl2 := true } 0 0x040 40 5 4) = false) := by decide

/-- The smallest admitted table, and that of the reset state. -/
theorem witness_SentinelShowsRawWord :
    tableAdmitted (Constants.itable { Config.constants with itable := [Row.sentinel] }) = true ∧
      tableAdmitted Config.constants.itable = true := by decide

theorem witness_RegisterNamesFromTables : Config.constants.namesAdmitted = true := by decide

/-- The four combinations of `MINUS32` and `SHL2`. -/
theorem witness_ImmediatePolicy : ∀ m s : Bool, ∃ (q : Quirks) (v : Int) (w : Nat), q.minus32 = m ∧ q.shl2 = s ∧
    v = (((5 : Nat) : Int) - if q.minus32 then 32 else 0) * (if q.shl2 then 4 else 1) ∧
    w = 6 + (if q.shl2 then 2 else 0) := fun m s => ⟨{ minus32 := m, shl2 := s }, _, _, rfl, rfl, rfl, rfl⟩

/-- The smallest width, and both sides of the sign boundary at width 12. -/
theorem witness_SignConversion :
    1 ≤ 1 ∧ 0 < 2 ^ 1 ∧ 1 ≤ 12 ∧ 2 ^ (12 - 1) ≤ 2048 ∧ 2048 < 2 ^ 12 ∧ ¬2 ^ (12 - 1) ≤ 2047 := by
  decide

theorem witness_ScaledImmediateSignExtends :
    1 ≤ 14 ∧ 0x3FFF < 2 ^ 14 ∧ (Quirks.minus32 { shl2 := true }) = false ∧ (Quirks.shl2 { shl2 := true }) = true := by
  decide

/-- Both clauses, at the smallest width 6. -/
theorem witness_SignExtensionAfterBias :
    6 ≤ 6 ∧ 63 < 2 ^ 6 ∧ (Quirks.minus32 {}) = false ∧ 31 < 2 ^ 6 ∧
      immValue { minus32 := true, shl2 := true } 31 < 0 := by
  decide

theorem witness_HexTextDenotesNumber : (hex 0).head? = some '0' := by decide

/-- 00_scope R13: `0` for zero. -/
theorem test_zero_texts : hex 0 = ['0'] ∧ dec 0 = ['0'] := by decide

theorem witness_DecTextDenotesInteger : dec 0 = (if (0 : Int) < 0 then ['-'] else []) ++ ['0'] ∧ (-1 : Int) < 0 := by
  decide

theorem witness_UnknownTextShowsWholeWord : renderUnknown 0xDEADBEEF = renderUnknown 0xDEADBEEF := rfl

/-- Both directions of the equivalence, at the first row, at a row behind an overlapping one and at the sentinel. -/
theorem witness_MatchIsFirstRow :
    matchWord Config.tvTable 0x4C000020 = some (0, ⟨txt "ret", .rri16, 0x4C000020, 0xFFFFFFFF, {}⟩) ∧
    matchWord Config.tvTable 0x4C000021 = some (1, ⟨txt "jirl", .rri16, 0x4C000000, 0xFC000000, {}⟩) ∧
    matchWord Config.tvTable 0 = some (25, Row.sentinel) := by decide

theorem witness_MatchLawsOnAdmittedTable : tableAdmitted Config.constants.itable = true := by decide

/-- A general row before a special one, so that the special one is unreachable. -/
theorem witness_ShadowedRowUnreachable :
    let general : Row := ⟨txt "jirl", .rri16, 0x4C000000, 0xFC000000, {}⟩
    let special : Row := ⟨txt "ret", .rri16, 0x4C000020, 0xFFFFFFFF, {}⟩
    0 < 1 ∧ [general, special, Row.sentinel][0]? = some general ∧ [general, special, Row.sentinel][1]? = some special ∧
      general.shadows special = true ∧ special.recognises 0x4C000020 = true := by decide

/-- The second clause of that statement: the general row recognises all that the special one does. -/
theorem witness_ShadowedRowUnreachable_recognises (w : Word)
    (h : Row.recognises ⟨txt "ret", .rri16, 0x4C000020, 0xFFFFFFFF, {}⟩ w = true) :
    Row.recognises ⟨txt "jirl", .rri16, 0x4C000000, 0xFC000000, {}⟩ w = true := by
  have hm : w &&& 0xFFFFFFFF = 0x4C000020 := by simpa [Row.recognises] using h
  have hw : w = 0x4C000020 := by rw [← hm]; exact (BitVec.and_allOnes (x := w)).symm
  subst hw
  decide

theorem witness_RowRecognition :
    let r : Row := ⟨txt "x", .rr, 0x00000001, 0xFFFFFFFE, {}⟩
    r.matchBits &&& ~~~r.mask ≠ 0 ∧ r ∈ oneRow r := by decide

/-- A shape other than I25, and two equal records. -/
theorem witness_RecordRebuildsWord :
    Shape.rr ≠ .i25 ∧ decodeFields 0x00108820 .rr = decodeFields 0x00108820 .rr ∧
      0x50001000#32 &&& ~~~(0x200#32) = 0x50001200#32 &&& ~~~(0x200#32) := by decide

/-- Every constructor that an admitted table gives, and the generic `unknown` under a table that holds its row. -/
theorem witness_DecodeOfEncode :
    (Instr.wf (.add 2 {} 0 0x021 2 1 0) = true ∧ Instr.placedIn Config.tvTable (.add 2 {} 0 0x021 2 1 0) = true) ∧
    (Instr.wf (.sentinel 25 0) = true ∧ Instr.placedIn Config.tvTable (.sentinel 25 0) = true) ∧
    (Instr.wf (.j 23 { jump := true } 20 4 1) = true ∧
      Instr.placedIn Config.tvTable (.j 23 { jump := true } 20 4 1) = true) ∧
    (Instr.wf (.unknown ⟨0, txt "raw", {}⟩ 7) = true ∧
      Instr.placedIn [⟨txt "raw", .unknown, 0, 0, {}⟩] (.unknown ⟨0, txt "raw", {}⟩ 7) = true) := by decide

theorem witness_EncodeOfDecode :
    decode Config.tvTable [0x20, 0x88, 0x10, 0x00, 0xFF] = .ok (.add 2 {} 0 0x021 2 1 0) := by decide

/-- A row before the sentinel and the sentinel. -/
theorem witness_DecodedIsWellFormed :
    tableAdmitted Config.constants.itable = true ∧
    decode Config.constants.itable [0x20, 0x88, 0x10, 0x00] = .ok (.add 2 {} 0 0x021 2 1 0) ∧
    decode Config.constants.itable [0, 0, 0, 0] = .ok (.sentinel 25 0) := by decide

/-- The boundary: three bytes and four. -/
theorem witness_DecoderIsTotal :
    ([0x20, 0x88, 0x10] : List Byte).length < 4 ∧ 4 ≤ ([0x20, 0x88, 0x10, 0x00] : List Byte).length ∧
      tableAdmitted Config.tvTable = true := by decide

theorem witness_StepRunsDecodedInstruction :
    let s := at0x1000 0x00108820
    s.consts.admitted = true ∧ 4 ≤ s.inp.inLen ∧
      decode s.consts.itable [s.inp.b0, s.inp.b1, s.inp.b2, s.inp.b3] = .ok (.add 2 {} 0 0x021 2 1 0) ∧
      Instr.wf (.add 2 {} 0 0x021 2 1 0) = true := by decide

/-- No byte, and the boundary of three bytes. -/
theorem witness_InsufficientInput :
    State.reset.consts.admitted = true ∧ State.reset.inp.inLen < 4 ∧
      (State.reset.present [0x20, 0x88, 0x10] 0x1000).consts.admitted = true ∧
      (State.reset.present [0x20, 0x88, 0x10] 0x1000).inp.inLen < 4 := by decide

/-- A table whose one row is not the word's, so that "no row before the sentinel" is not empty. -/
theorem witness_UnrecognisedWordIsShownRaw :
    let s := withTable (oneRow ⟨txt "x", .rr, 0x00000001, 0x00000001, {}⟩) 0x54000000
    s.consts.admitted = true ∧ 4 ≤ s.inp.inLen ∧
      (0x54000000 : Word) = assembleWord s.inp.b0 s.inp.b1 s.inp.b2 s.inp.b3 ∧ s.consts.nRows = 1 ∧
      ∀ r, s.consts.itable[0]? = some r → r.recognises 0x54000000 = false := by
  refine ⟨by decide, by decide, by decide, by decide, ?_⟩
  rintro r h
  cases h
  decide

theorem witness_StepIsEvaluation : (at0x1000 0x5BFFFC85).consts.admitted = true := by decide

theorem witness_EvaluationNeverFails : (at0x1000 0xFFFFFFFF).consts.admitted = true := by decide

/-- Both sides: a table that is not admitted, and constants refused for their capacity. -/
theorem witness_OnlyInadmissibleConstantsRefused :
    tableAdmitted (withTable [] 0).consts.itable = false ∧
      Constants.admitted { Config.constants with cap := 0 } = false := by decide

/-- A step that answers a next state, for a recognised word, an unrecognised one and no word at all. -/
theorem witness_StepKeepsConstantsAndInputs :
    (∃ t, step (at0x1000 0x00108820) = .next t) ∧ (∃ t, step (at0x1000 0) = .next t) ∧
      ∃ t, step State.reset = .next t :=
  ⟨⟨_, rfl⟩, ⟨_, rfl⟩, ⟨_, rfl⟩⟩

/-- Two states that differ in all that does not matter, once with four bytes and once with fewer. -/
theorem witness_OutputsDependOnInputsAlone :
    let s := State.reset.present [0x20, 0x88, 0x10, 0x00] 0x1000
    let s' := (State.reset.present [0x20, 0x88, 0x10, 0x00, 0xFF] 0x1000).report ⟨0, txt "x", {}⟩ none (.unknown 0)
      (txt "x")
    let u := State.reset.present [0x20] 0
    let u' := State.reset.present [0xFF, 0xFF, 0xFF] 0
    (s.consts = s'.consts ∧ s.inp.pc = s'.inp.pc ∧ (4 ≤ s.inp.inLen ↔ 4 ≤ s'.inp.inLen) ∧ 4 ≤ s.inp.inLen ∧
      s.inp.b0 = s'.inp.b0 ∧ s.inp.b1 = s'.inp.b1 ∧ s.inp.b2 = s'.inp.b2 ∧ s.inp.b3 = s'.inp.b3 ∧ s ≠ s' ∧
      ∃ t, step s = .next t) ∧
    (u.consts = u'.consts ∧ u.inp.pc = u'.inp.pc ∧ (4 ≤ u.inp.inLen ↔ 4 ≤ u'.inp.inLen) ∧ ¬4 ≤ u.inp.inLen ∧
      ∃ t, step u = .next t) :=
  ⟨⟨rfl, rfl, by decide, by decide, rfl, rfl, rfl, rfl, by decide, ⟨_, rfl⟩⟩,
    ⟨rfl, rfl, by decide, by decide, ⟨_, rfl⟩⟩⟩

/-- A word whose text `pc` does move: the second clause is not empty. -/
theorem witness_PcMovesJumpTargetsOnly :
    (∃ t, step (at0x1000 0x50001000) = .next t) ∧
      textOf (step { at0x1000 0x50001000 with inp := { (at0x1000 0x50001000).inp with pc := 0 } }) ≠
        textOf (step (at0x1000 0x50001000)) := ⟨⟨_, rfl⟩, by decide⟩

theorem witness_RetryingChangesNothing : ∃ t, step (at0x1000 0x28800464) = .next t ∧ t ≠ at0x1000 0x28800464 :=
  ⟨_, rfl, by decide⟩

theorem witness_EveryStepKeepsOutputsConsistent : ∃ t, step (at0x1000 0x0067A0A4) = .next t := ⟨_, rfl⟩

/-- A capacity that cuts the text and one that is just enough for it. -/
theorem witness_TruncationOnlyCutsText :
    let s8 : State := { at0x1000 0x00108820 with consts := { Config.constants with cap := 8 } }
    let s16 : State := { at0x1000 0x00108820 with consts := { Config.constants with cap := 16 } }
    (∃ t, step s8 = .next t) ∧ s8.consts.cap ≤ 64 ∧
      (∃ t, step s16 = .next t ∧ t.out.textLen ≤ 16) ∧ s16.consts.cap ≤ 16 :=
  ⟨⟨_, rfl⟩, by decide, ⟨_, rfl, by decide⟩, by decide⟩

theorem witness_MnemonicPrintedVerbatim :
    ∃ t, step (at0x1000 0x0D018820) = .next t ∧ t.out.idx = some 9 ∧
      (at0x1000 0x0D018820).consts.itable[9]? =
        some ⟨txt "!fsel", .ffff, 0x0D000000, 0xFFF00000, { fprD := true, fprJ := true, fprK := true }⟩ ∧
      9 < (at0x1000 0x0D018820).consts.nRows ∧ mnemonicOk (txt "fsel") = true :=
  ⟨_, rfl, rfl, rfl, by decide, by decide⟩

/-- A flag a shape lacks and one it honours. -/
theorem witness_QuirkFlagsActByShape :
    (Record.shape (.rr 0 0 0 0)).honours .hex = false ∧ Shape.honours .rri14 .ldst = true := by decide

theorem witness_PortCodesInListingOrder : Quirks.code { hex := true } = Quirks.code { hex := true } := rfl

theorem witness_ShownRowsAgreeWithTheirShape :
    (Quirks.fitsAdd {} = true ∧ Quirks.fitsAdd { fprD := true } = false) ∧
    (Quirks.fitsLw { ldst := true } = true ∧ Quirks.fitsLw {} = false) ∧
    (Quirks.fitsJ { jump := true } = true ∧ Quirks.fitsJ {} = false) ∧
    (Quirks.fitsSlliw { minus32 := true, fprD := true } = true ∧ Quirks.fitsSlliw {} = false) := by decide

theorem witness_SourceExamplesHold :
    let s : State := { at0x1000 0 with consts := { Config.constants with cap := 16 } }
    s.consts.namesAdmitted = true ∧ 16 ≤ s.consts.cap ∧ s.inp.pc = 0x1000 := by decide

/-- Two whole words and a rest of three bytes, and the empty span. -/
theorem witness_WalkVisitsEveryWord :
    State.reset.consts.admitted = true ∧
    (match walk State.reset 3 [0xa4, 0xa0, 0x40, 0x00, 0xff, 0xff, 0xff, 0xff, 0x64, 0x04, 0x80] 0x2000 with
      | .next (log, last) => log.map (fun e => e.2.consumed) == [4, 4, -1] && last == 0x2008
      | _ => false) = true ∧
    walk State.reset 1 [] 0x2000 = .next ([(0x2000, Outputs.insufficient)], 0x2000) := ⟨by decide, by decide, rfl⟩

end Sys2Proof.Tests
end

section
/-!
SUPPORT. What the number texts of spec/00_scope.md R13 denote, by the library's list of digits, and the sign conversion
of R12.
-/
namespace Sys2Proof.Machine

/-! ## Digits -/

theorem digitValue_digitChar {d : Nat} (h : d < 16) : digitValue (digitChar d) = d := by
  have hall : ∀ k : Fin 16, digitValue (digitChar k.val) = k.val := by decide
  exact hall ⟨d, h⟩

theorem isHexDigit_digitChar {d : Nat} (h : d < 16) : isHexDigit (digitChar d) = true := by
  have hall : ∀ k : Fin 16, isHexDigit (digitChar k.val) = true := by decide
  exact hall ⟨d, h⟩

/-- A digit below ten is one of `0` to `9`. -/
theorem digitChar_decimal {d : Nat} (h : d < 10) : 48 ≤ (digitChar d).toNat ∧ (digitChar d).toNat ≤ 57 := by
  have hall : ∀ k : Fin 10, 48 ≤ (digitChar k.val).toNat ∧ (digitChar k.val).toNat ≤ 57 := by decide
  exact hall ⟨d, h⟩

theorem digitChar_eq_zero {d : Nat} (h : d < 16) (h0 : digitChar d = '0') : d = 0 := by
  have hv := digitValue_digitChar h
  rw [h0] at hv
  exact hv.symm

/-- A text of digits, the least significant last, denotes what the list of its digits does. -/
theorem digitsValue_map_digitChar (b : Nat) {ds : List Nat} (h : ∀ d ∈ ds, d < 16) :
    digitsValue b (ds.reverse.map digitChar) = Nat.ofDigits b ds := by
  rw [digitsValue, List.map_reverse, List.foldl_reverse]
  induction ds with
  | nil => rfl
  | cons d ds ih =>
    rw [List.map_cons, List.foldr_cons, ih fun x hx => h x (by simp [hx]), digitValue_digitChar (h d (by simp)),
      Nat.ofDigits_cons, Nat.mul_comm, Nat.add_comm]

/-- The loop puts the digits of the number, the most significant first, before `acc`. -/
theorem digitsBefore_eq {b : Nat} (hb : 2 ≤ b) (fuel n : Nat) (acc : Text) (h0 : n ≠ 0) (hn : n < 2 ^ fuel) :
    digitsBefore b fuel n acc = (Nat.digits b n).reverse.map digitChar ++ acc := by
  induction fuel generalizing n acc with
  | zero => omega
  | succ f ih =>
    unfold digitsBefore
    split
    · next hq =>
      have hlt : n < b := (Nat.div_eq_zero_iff_lt (by omega)).1 hq
      simp [Nat.digits_of_lt b n h0 hlt, Nat.mod_eq_of_lt hlt]
    · next hq =>
      have hhalf : n / b < 2 ^ f := by
        have hle : n / b ≤ n / 2 := Nat.div_le_div_left hb (by decide)
        omega
      rw [ih (n / b) _ hq hhalf, Nat.digits_def' hb (Nat.pos_of_ne_zero h0)]
      simp

theorem digits_zero (b : Nat) : digits b 0 = ['0'] := by
  simp [digits, digitsBefore, digitChar]

theorem digits_eq {b n : Nat} (hb : 2 ≤ b) (h0 : n ≠ 0) :
    digits b n = (Nat.digits b n).reverse.map digitChar := by
  rw [digits, digitsBefore_eq hb _ n [] h0 Nat.lt_log2_self, List.append_nil]

/-- A number's text denotes it. -/
theorem digitsValue_digits {b : Nat} (hb : 2 ≤ b) (h16 : b ≤ 16) (n : Nat) : digitsValue b (digits b n) = n := by
  rcases eq_or_ne n 0 with rfl | h0
  · simp [digits_zero, digitsValue, digitValue]
  · rw [digits_eq hb h0, digitsValue_map_digitChar b fun d hd => (Nat.digits_lt_base hb hd).trans_le h16,
      Nat.ofDigits_digits]

/-- Every character of a number's text is a digit of the base. -/
theorem mem_digits {b : Nat} (hb : 2 ≤ b) {n : Nat} {c : Char} (hc : c ∈ digits b n) : ∃ d < b, c = digitChar d := by
  rcases eq_or_ne n 0 with rfl | h0
  · rw [digits_zero, List.mem_singleton] at hc
    exact ⟨0, by omega, hc⟩
  · rw [digits_eq hb h0] at hc
    obtain ⟨d, hd, rfl⟩ := List.mem_map.1 hc
    exact ⟨d, Nat.digits_lt_base hb (List.mem_reverse.1 hd), rfl⟩

/-- No number but zero has a text that begins with `0`, and zero has the one digit. -/
theorem digits_head_zero {b : Nat} (hb : 2 ≤ b) (h16 : b ≤ 16) {n : Nat} (h : (digits b n).head? = some '0') :
    n = 0 ∧ digits b n = ['0'] := by
  have h0 : n = 0 := by
    by_contra hne
    rw [digits_eq hb hne, List.head?_map, List.head?_reverse,
      List.getLast?_eq_some_getLast (Nat.digits_ne_nil_iff_ne_zero.2 hne)] at h
    have hlt := (Nat.digits_lt_base hb (List.getLast_mem (Nat.digits_ne_nil_iff_ne_zero.2 hne))).trans_le h16
    exact Nat.getLast_digit_ne_zero b hne (digitChar_eq_zero hlt (Option.some.inj h))
  exact ⟨h0, h0 ▸ digits_zero b⟩

/-! ## The text of a raw word -/

/-- The eight nibbles of a number, the least significant first. -/
def nibbles (v : Nat) : List Nat := [0, 4, 8, 12, 16, 20, 24, 28].map fun k => v / 2 ^ k % 16

theorem hex8_eq_nibbles (v : Nat) : hex8 v = (nibbles v).reverse.map digitChar := rfl

theorem nibbles_lt {v d : Nat} (h : d ∈ nibbles v) : d < 16 := by
  obtain ⟨k, -, rfl⟩ := List.mem_map.1 h
  exact Nat.mod_lt _ (by decide)

theorem ofDigits_nibbles (v : Nat) : Nat.ofDigits 16 (nibbles v) = v % 2 ^ 32 := by
  simp only [nibbles, List.map_cons, List.map_nil, Nat.ofDigits_cons, Nat.ofDigits_nil]
  omega

@[simp] theorem hex8_length (v : Nat) : (hex8 v).length = 8 := rfl

/-- The eight digits denote the low 32 bits of the number (42_renderer R149). -/
theorem digitsValue_hex8 (v : Nat) : digitsValue 16 (hex8 v) = v % 2 ^ 32 := by
  rw [hex8_eq_nibbles, digitsValue_map_digitChar 16 fun _ => nibbles_lt, ofDigits_nibbles]

theorem hex8_all_isHexDigit (v : Nat) : (hex8 v).all isHexDigit = true := by
  rw [List.all_eq_true]
  intro c hc
  obtain ⟨d, hd, rfl⟩ := List.mem_map.1 (hex8_eq_nibbles v ▸ hc)
  exact isHexDigit_digitChar (nibbles_lt (List.mem_reverse.1 hd))

/-- Different words have different texts (42_renderer R163). -/
theorem renderUnknown_injective {w w' : Word} (h : renderUnknown w = renderUnknown w') : w = w' := by
  have hval := congrArg (digitsValue 16) (List.append_cancel_left h)
  rw [digitsValue_hex8, digitsValue_hex8, Nat.mod_eq_of_lt w.isLt, Nat.mod_eq_of_lt w'.isLt] at hval
  exact BitVec.eq_of_toNat_eq hval

/-! ## The sign conversion -/

/-- The signed value lies in the signed range (00_scope R12). -/
theorem signedN_range {n u : Nat} (h : 1 ≤ n) (hu : u < 2 ^ n) :
    -(2 : Int) ^ (n - 1) ≤ signedN n u ∧ signedN n u ≤ 2 ^ (n - 1) - 1 := by
  have hp : 2 ^ (n - 1) + 2 ^ (n - 1) = 2 ^ n := Nat.two_pow_pred_add_two_pow_pred h
  have hcast (k : Nat) : (2 : Int) ^ k = (2 ^ k : Nat) := by push_cast; rfl
  rw [signedN, hcast n, hcast (n - 1)]
  split <;> omega

/-- The signed value is congruent to the unsigned one (00_scope R12). -/
theorem signedN_emod {n u : Nat} (hu : u < 2 ^ n) : signedN n u % 2 ^ n = (u : Int) := by
  have hmod : (u : Int) % 2 ^ n = u := Int.emod_eq_of_lt (by omega) (by exact_mod_cast hu)
  unfold signedN
  split
  · rw [Int.sub_emod_right, hmod]
  · exact hmod

/-- The zero-extended value is the remainder modulo `2^N`, and lies below it (00_scope R12). -/
theorem zextN_eq_emod (n : Nat) (v : Int) : (zextN n v : Int) = v % 2 ^ n :=
  Int.toNat_of_nonneg (Int.emod_nonneg v (by positivity))

theorem zextN_lt (n : Nat) (v : Int) : zextN n v < 2 ^ n := by
  have h : (zextN n v : Int) < 2 ^ n := by
    rw [zextN_eq_emod]
    exact Int.emod_lt_of_pos v (by positivity)
  exact_mod_cast h

/-- Sign extension is congruent to the value it extends. -/
theorem sextN_emod (n : Nat) (v : Int) : sextN n v % 2 ^ n = v % 2 ^ n := by
  rw [sextN, signedN_emod (zextN_lt n v), zextN_eq_emod]

end Sys2Proof.Machine
end

section
/-!
SUPPORT. The facts behind the statements on the whole evaluation (spec/00_scope.md R14): what an admitted table is, what
`Instr.ofRow` makes of a row and a word, and that every well-formed instruction's meaning is RENDER of its record.
-/
namespace Sys2Proof

/-! ## Admitted tables -/

/-- What 00_scope R9 (a), (b), (d) ask of a row before the sentinel. -/
theorem Row.admitted_iff (r : Row) : r.admitted = true ↔
    r.shape ≠ .unknown ∧ r.matchBits &&& ~~~r.mask = 0 ∧ r.mnemonic ≠ [] ∧ textPrintable r.mnemonic = true := by
  simp [Row.admitted, Row.maskOk, mnemonicOk, and_assoc]

/-- An admitted table is admitted rows and then the sentinel (00_scope R9; 30_encoding R87). -/
theorem tableAdmitted_iff (t : List Row) : tableAdmitted t = true ↔
    ∃ rows, t = rows ++ [Row.sentinel] ∧ ∀ r ∈ rows, r.admitted = true := by
  induction t with
  | nil => simp [tableAdmitted]
  | cons r rs ih =>
    cases rs with
    | nil =>
      constructor
      · intro h
        exact ⟨[], by simpa [tableAdmitted] using h, by simp⟩
      · rintro ⟨rows, h, -⟩
        cases rows <;> simp_all [tableAdmitted]
    | cons r' rs' =>
      rw [tableAdmitted, Bool.and_eq_true, ih]
      constructor
      · rintro ⟨hr, rows, hrows, hall⟩
        exact ⟨r :: rows, by rw [hrows]; rfl, by simpa [hr] using hall⟩
      · rintro ⟨rows, h, hall⟩
        cases rows with
        | nil => simp at h
        | cons r0 rows =>
          obtain ⟨rfl, htail⟩ := List.cons.inj h
          exact ⟨hall r (by simp), rows, htail, fun x hx => hall x (by simp [hx])⟩

/-- What must be in place before the first evaluation, as propositions (70_reset_and_hazards R222). -/
theorem Constants.admitted_iff (c : Constants) : c.admitted = true ↔
    tableAdmitted c.itable = true ∧ c.namesAdmitted = true ∧ 1 ≤ c.cap := by
  simp [Constants.admitted, and_assoc]

/-- Under an admitted table MATCH always answers (40_matcher R101). -/
theorem matchWord_of_tableAdmitted {t : List Row} (h : tableAdmitted t = true) (w : Word) :
    ∃ idx row, matchWord t w = some (idx, row) := by
  cases hm : matchWord t w with
  | some p => exact ⟨p.1, p.2, rfl⟩
  | none =>
    have hs := matchFrom_none.1 hm Row.sentinel (sentinel_mem_of_tableAdmitted h)
    simp at hs

/-- The row MATCH gives is an admitted row before the last, or the sentinel at the end of the table. -/
theorem matchWord_row_cases {t : List Row} {w : Word} {idx : Nat} {row : Row} (h : tableAdmitted t = true)
    (hm : matchWord t w = some (idx, row)) :
    (idx < t.length - 1 ∧ row.admitted = true) ∨ (idx = t.length - 1 ∧ row = Row.sentinel) := by
  obtain ⟨rows, rfl, hall⟩ := (tableAdmitted_iff t).1 h
  obtain ⟨k, rfl, hk, -, -⟩ := matchFrom_some hm
  simp only [Nat.zero_add, List.length_append, List.length_singleton, Nat.add_sub_cancel]
  rcases Nat.lt_or_ge k rows.length with hlt | hge
  · rw [List.getElem?_append_left hlt] at hk
    exact .inl ⟨hlt, hall row (List.mem_of_getElem? hk)⟩
  · rw [List.getElem?_append_right hge] at hk
    obtain ⟨hlen, hrow⟩ := List.getElem?_eq_some_iff.1 hk
    have hkl : k = rows.length := by simp at hlen; omega
    exact .inr ⟨hkl, by simpa using hrow.symm⟩

/-! ## The word of a decoded record -/

/-- Two neighbouring slices of a word, each at its own place, are one slice at its place. -/
theorem place_or_place_slices (w : Word) (p q k m : Nat) (h : q = p + k) :
    (place (w.extractLsb' q m) q ||| place (w.extractLsb' p k) p) = place (w.extractLsb' p (k + m)) p := by
  subst h
  apply BitVec.eq_of_getLsbD_eq
  intro i hi
  simp only [BitVec.getLsbD_or, getLsbD_place, BitVec.getLsbD_extractLsb', hi]
  by_cases hp : i < p
  · simp [hp, Nat.lt_add_right k hp]
  · have hi' : p + (i - p) = i := by omega
    by_cases hk : i < p + k
    · simp [hp, hk, hi', show i - p < k by omega, show i - p < k + m by omega]
    · simp [hp, hk, hi', show p + k + (i - (p + k)) = i by omega, show ¬ i - p < k by omega,
        show i - (p + k) < m ↔ i - p < k + m by omega]

/-- The slice of all the bits is the word. -/
theorem place_slice_whole (w : Word) (n : Nat) (h : n = 32) : place (w.extractLsb' 0 n) 0 = w := by
  subst h
  simp [place]

/-- DECODE loses no bit of the word but bit 9 of shape `I25` (41_field_decoder R138). -/
theorem word_decodeFields (w : Word) (sh : Shape) (bit9 : BitVec 1) (h : sh = .i25 → bit9 = bit9Of w) :
    (decodeFields w sh).word bit9 = w := by
  cases sh with
  | unknown => rfl
  | i25 =>
    rw [h rfl]
    simp (disch := omega) only [decodeFields, Record.word, opcodeOf, bit9Of, splitImm_high, splitImm_low,
      place_or_place_slices, place_slice_whole]
  | _ =>
    simp (disch := omega) only [decodeFields, Record.word, opcodeOf, rdOf, rjOf, rkOf, raOf, splitImm_high,
      splitImm_low, place_or_place_slices, place_slice_whole]

/-- A decoded record has the tag of its row's shape (41_field_decoder R120). -/
@[simp] theorem decodeFields_shape (w : Word) (sh : Shape) : (decodeFields w sh).shape = sh := by
  cases sh <;> rfl

/-! ## The instruction of a row and a word -/

/-- The flags 43_table_rows R180 settles of row `add`. -/
theorem Quirks.fitsAdd_iff (q : Quirks) : q.fitsAdd = true ↔ q.fprD = false ∧ q.fprJ = false ∧ q.fprK = false := by
  simp [Quirks.fitsAdd, and_assoc]

/-- The flags 43_table_rows R181 settles of row `lw`. -/
theorem Quirks.fitsLw_iff (q : Quirks) : q.fitsLw = true ↔
    q.ldst = true ∧ q.fprD = false ∧ q.fprJ = false ∧ q.hex = false ∧ q.minus32 = false ∧ q.shl2 = false := by
  simp [Quirks.fitsLw, and_assoc]

/-- The flags 43_table_rows R182 settles of row `j`. -/
theorem Quirks.fitsJ_iff (q : Quirks) : q.fitsJ = true ↔ q.jump = true ∧ q.shl2 = false ∧ q.minus32 = false := by
  simp [Quirks.fitsJ, and_assoc]

/-- The flags 43_table_rows R183 settles of row `slliw`. -/
theorem Quirks.fitsSlliw_iff (q : Quirks) : q.fitsSlliw = true ↔
    q.minus32 = true ∧ q.hex = false ∧ q.shl2 = false := by
  simp [Quirks.fitsSlliw, and_assoc]

/-- A row taken for row `add` has its mnemonic and its settled quirks (43_table_rows R180). -/
theorem Row.ref_of_isAdd {row : Row} {idx : Nat} (h : (row.ref idx).isAdd = true) :
    row.ref idx = ⟨idx, txt "add", row.quirks⟩ ∧ row.quirks.fitsAdd = true := by
  simpa [RowRef.isAdd, Row.ref] using h

/-- A row taken for row `lw` has its mnemonic and its settled quirks (43_table_rows R181). -/
theorem Row.ref_of_isLw {row : Row} {idx : Nat} (h : (row.ref idx).isLw = true) :
    row.ref idx = ⟨idx, txt "lw", row.quirks⟩ ∧ row.quirks.fitsLw = true := by
  simpa [RowRef.isLw, Row.ref] using h

/-- A row taken for row `j` has its mnemonic and its settled quirks (43_table_rows R182). -/
theorem Row.ref_of_isJ {row : Row} {idx : Nat} (h : (row.ref idx).isJ = true) :
    row.ref idx = ⟨idx, txt "j", row.quirks⟩ ∧ row.quirks.fitsJ = true := by
  simpa [RowRef.isJ, Row.ref] using h

/-- A row taken for row `slliw` has its mnemonic and its settled quirks (43_table_rows R183). -/
theorem Row.ref_of_isSlliw {row : Row} {idx : Nat} (h : (row.ref idx).isSlliw = true) :
    row.ref idx = ⟨idx, txt "slliw", row.quirks⟩ ∧ row.quirks.fitsSlliw = true := by
  simpa [RowRef.isSlliw, Row.ref] using h

/-- The instruction of a row belongs to that row. -/
theorem ref_ofRow (idx : Nat) (row : Row) (w : Word) : (Instr.ofRow idx row w).ref = row.ref idx := by
  unfold Instr.ofRow
  split
  case h_2 =>
    split
    · next hadd => exact (Row.ref_of_isAdd hadd).1.symm
    · rfl
  case h_4 =>
    split
    · next hslliw => exact (Row.ref_of_isSlliw hslliw).1.symm
    · rfl
  case h_6 =>
    split
    · next hlw => exact (Row.ref_of_isLw hlw).1.symm
    · rfl
  case h_12 =>
    split
    · next hj => exact (Row.ref_of_isJ hj).1.symm
    · rfl
  case h_13 =>
    split
    · next hs => rw [hs]; rfl
    · rfl
  all_goals rfl

/-- The record of the instruction of a row is what DECODE gives under the row's shape (41_field_decoder R120). -/
theorem record_ofRow (idx : Nat) (row : Row) (w : Word) :
    (Instr.ofRow idx row w).record = decodeFields w row.shape := by
  unfold Instr.ofRow
  split
  case h_2 hrec | h_4 hrec | h_6 hrec | h_12 hrec | h_13 hrec =>
    rw [hrec]
    split <;> rfl
  all_goals next hrec => rw [hrec]; rfl

theorem shape_ofRow (idx : Nat) (row : Row) (w : Word) : (Instr.ofRow idx row w).shape = row.shape := by
  rw [Instr.shape, record_ofRow, decodeFields_shape]

/-- An `I25` instruction keeps bit 9 of its word. -/
theorem ignored_ofRow {row : Row} (idx : Nat) (w : Word) (h : row.shape = .i25) :
    (Instr.ofRow idx row w).ignored = bit9Of w := by
  simp only [Instr.ofRow, h, decodeFields]
  split <;> rfl

/-- Encoding the instruction of a row and a word gives the word back (41_field_decoder R138). -/
theorem encode_ofRow (idx : Nat) (row : Row) (w : Word) : encode (Instr.ofRow idx row w) = w := by
  rw [encode, record_ofRow]
  exact word_decodeFields w row.shape _ (ignored_ofRow idx w)

/-- The sentinel row gives the constructor `sentinel`. -/
@[simp] theorem ofRow_sentinel (idx : Nat) (w : Word) : Instr.ofRow idx Row.sentinel w = .sentinel idx w := rfl

/-- A row of a named shape gives neither `sentinel` nor `unknown`. -/
theorem ofRow_of_shape_ne_unknown {row : Row} (idx : Nat) (w : Word) (h : row.shape ≠ .unknown) :
    (∀ k raw, Instr.ofRow idx row w ≠ .sentinel k raw) ∧ ∀ r raw, Instr.ofRow idx row w ≠ .unknown r raw := by
  rw [← shape_ofRow idx row w] at h
  exact ⟨fun k raw hi => h (by rw [hi]; rfl), fun r raw hi => h (by rw [hi]; rfl)⟩

/-- The instruction of an admitted row is well-formed: a row that R180 to R183 settle has its own constructor. -/
theorem wf_ofRow {row : Row} (idx : Nat) (w : Word) (h : row.admitted = true) :
    (Instr.ofRow idx row w).wf = true := by
  have hm : (row.ref idx).wf = true := by
    simp only [Row.admitted, Bool.and_eq_true] at h
    exact h.2
  unfold Instr.ofRow
  split
  case h_2 =>
    split
    · next hadd => exact (Row.ref_of_isAdd hadd).2
    · next hadd => simp [Instr.wf, hm, hadd]
  case h_4 =>
    split
    · next hslliw => exact (Row.ref_of_isSlliw hslliw).2
    · next hslliw => simp [Instr.wf, hm, hslliw]
  case h_6 =>
    split
    · next hlw => exact (Row.ref_of_isLw hlw).2
    · next hlw => simp [Instr.wf, hm, hlw]
  case h_12 =>
    split
    · next hj => exact (Row.ref_of_isJ hj).2
    · next hj => simp [Instr.wf, hm, hj]
  case h_13 =>
    split
    · rfl
    · exact hm
  all_goals exact hm

/-- An instruction that is no sentinel is placed in a table when MATCH gives, for its word, its row. -/
theorem placedIn_of_ne_sentinel {t : List Row} {i : Instr} {idx : Nat} {row : Row}
    (hm : matchWord t (encode i) = some (idx, row)) (href : row.ref idx = i.ref) (hsh : row.shape = i.shape)
    (hrow : row ≠ Row.sentinel) (hi : ∀ k raw, i ≠ .sentinel k raw) : i.placedIn t = true := by
  unfold Instr.placedIn
  rw [hm]
  cases i with
  | sentinel k raw => exact absurd rfl (hi k raw)
  | _ => simp [href, hsh, hrow]

/-- The instruction of the row that MATCH gives is placed in the table, when the row is an admitted one or the
sentinel. -/
theorem placedIn_ofRow {t : List Row} {w : Word} {idx : Nat} {row : Row} (hm : matchWord t w = some (idx, row))
    (h : row.shape ≠ .unknown ∨ row = Row.sentinel) : (Instr.ofRow idx row w).placedIn t = true := by
  have he : matchWord t (encode (Instr.ofRow idx row w)) = some (idx, row) := by rw [encode_ofRow, hm]
  rcases h with hsh | rfl
  · refine placedIn_of_ne_sentinel he (ref_ofRow idx row w).symm (shape_ofRow idx row w).symm ?_
      (ofRow_of_shape_ne_unknown idx w hsh).1
    rintro rfl
    exact hsh rfl
  · rw [ofRow_sentinel] at he ⊢
    unfold Instr.placedIn
    rw [he]
    simp [Row.ref, Row.sentinel, Instr.ref, Instr.shape, Instr.record, Record.shape]

end Sys2Proof

namespace Sys2Proof.Machine

/-! ## The meaning of an instruction as RENDER of its record -/

/-- Row `add` is the generic row of shape `RRR`, its register-file flags being clear (43_table_rows R180). -/
theorem exec_add_eq_rrr {q : Quirks} (hq : q.fitsAdd = true) (idx : Nat) (o : BitVec 6) (sel : BitVec 11)
    (rk rj rd : RegIdx) (s : State) :
    exec (.add idx q o sel rk rj rd) s = exec (.rrr ⟨idx, txt "add", q⟩ o sel rk rj rd) s := by
  obtain ⟨hd, hj, hk⟩ := q.fitsAdd_iff.1 hq
  simp [exec, execAdd, execRrr, renderRrr, line, commaJoin, operandD, operandJ, operandK, hd, hj, hk,
    show txt "add " = txt "add" ++ txt " " from rfl]

/-- Row `lw` is the generic row of shape `RRI12` under `LDST` with no other flag that acts (43_table_rows R181). -/
theorem exec_lw_eq_rri12 {q : Quirks} (hq : q.fitsLw = true) (idx : Nat) (o : BitVec 6) (sel : BitVec 4)
    (i : BitVec 12) (rj rd : RegIdx) (s : State) :
    exec (.lw idx q o sel i rj rd) s = exec (.rri12 ⟨idx, txt "lw", q⟩ o sel i rj rd) s := by
  obtain ⟨hl, hd, hj, hh, hm, h2⟩ := q.fitsLw_iff.1 hq
  simp [exec, execLw, execRri12, renderRri12, line, commaJoin, memOperand, operandD, operandJ, imm, immValue,
    immWidth, hl, hd, hj, hh, hm, h2, show txt "lw " = txt "lw" ++ txt " " from rfl]

/-- Row `j` is the generic row of shape `I25` under `JUMP`, unscaled and unbiased (43_table_rows R182). -/
theorem exec_j_eq_i25 {q : Quirks} (hq : q.fitsJ = true) (idx : Nat) (o : BitVec 6) (i : BitVec 25) (b : BitVec 1)
    (s : State) : exec (.j idx q o i b) s = exec (.i25 ⟨idx, txt "j", q⟩ o i b) s := by
  obtain ⟨hj, h2, hm⟩ := q.fitsJ_iff.1 hq
  simp [exec, execJ, execI25, renderI25, line, commaJoin, imm, immValue, immWidth, jumpTarget, hj, h2, hm,
    show txt "j 0x" = txt "j" ++ txt " " ++ txt "0x" from rfl]

/-- Row `slliw` is the generic row of shape `RRI6` under `MINUS32` alone of the immediate flags (43_table_rows R183). -/
theorem exec_slliw_eq_rri6 {q : Quirks} (hq : q.fitsSlliw = true) (idx : Nat) (o : BitVec 6) (sel : BitVec 10)
    (i : BitVec 6) (rj rd : RegIdx) (s : State) :
    exec (.slliw idx q o sel i rj rd) s = exec (.rri6 ⟨idx, txt "slliw", q⟩ o sel i rj rd) s := by
  obtain ⟨hm, hh, h2⟩ := q.fitsSlliw_iff.1 hq
  simp [exec, execSlliw, execRri6, renderRri6, line, commaJoin, imm, immValue, hm, hh, h2,
    show txt "slliw " = txt "slliw" ++ txt " " from rfl]

/-- RENDER looks at the mnemonic and the quirks of the row, at nothing else of it. -/
theorem render_of_ref {row : Row} {idx : Nat} {r : RowRef} (h : r = row.ref idx) (c : Constants) (rec : Record)
    (pc : Addr) :
    render c row rec pc = render c { row with mnemonic := r.mnemonic, quirks := r.quirks } rec pc := by
  subst h
  rfl

/-- The meaning of a well-formed instruction reports RENDER of its record (42_renderer R141) with its row's mnemonic and
quirks. -/
theorem exec_eq_render {i : Instr} (hwf : i.wf = true) {row : Row} {idx : Nat} (href : i.ref = row.ref idx)
    (s : State) :
    exec i s = .next (s.report i.ref (mnemonicPort i) i.record (render s.consts row i.record s.inp.pc)) := by
  rw [render_of_ref href]
  cases i with
  | add => rw [exec_add_eq_rrr hwf]; rfl
  | lw => rw [exec_lw_eq_rri12 hwf]; rfl
  | j => rw [exec_j_eq_i25 hwf]; rfl
  | slliw => rw [exec_slliw_eq_rri6 hwf]; rfl
  | _ => rfl

end Sys2Proof.Machine
end

section
/-!
SUPPORT. One evaluation, from the matched row to the output ports (spec/00_scope.md R14).
-/
namespace Sys2Proof.Machine

/-- The instruction of the row that MATCH gives under an admitted table is well-formed. -/
theorem wf_ofRow_of_match {t : List Row} {w : Word} {idx : Nat} {row : Row} (h : tableAdmitted t = true)
    (hm : matchWord t w = some (idx, row)) : (Instr.ofRow idx row w).wf = true := by
  rcases matchWord_row_cases h hm with ⟨-, hrow⟩ | ⟨-, rfl⟩
  · exact wf_ofRow idx w hrow
  · rfl

/-- Every instruction but `sentinel` shows its row's mnemonic. -/
theorem mnemonicPort_of_ne_sentinel {i : Instr} (h : ∀ k raw, i ≠ .sentinel k raw) :
    mnemonicPort i = some i.ref.mnemonic := by
  cases i with
  | sentinel k raw => exact absurd rfl (h k raw)
  | _ => rfl

/-- The port `mnemonic` shows the matched row's, and nothing for the sentinel (30_encoding R87). -/
theorem mnemonicPort_ofRow_of_match {t : List Row} {w : Word} {idx : Nat} {row : Row} (h : tableAdmitted t = true)
    (hm : matchWord t w = some (idx, row)) :
    mnemonicPort (Instr.ofRow idx row w) = if row = Row.sentinel then none else some row.mnemonic := by
  rcases matchWord_row_cases h hm with ⟨-, hrow⟩ | ⟨-, rfl⟩
  · have hsh : row.shape ≠ .unknown := ((Row.admitted_iff row).1 hrow).1
    have hne : row ≠ Row.sentinel := fun hs => hsh (congrArg Row.shape hs)
    rw [mnemonicPort_of_ne_sentinel (ofRow_of_shape_ne_unknown idx w hsh).1, ref_ofRow, if_neg hne]
    rfl
  · rfl

/-- The word on the input ports. -/
def Inputs.word (x : Inputs) : Word := assembleWord x.b0 x.b1 x.b2 x.b3

/-- With four bytes on the ports the machine decodes the word by the row MATCH gives for it. -/
theorem fetch_of_match {s : State} {idx : Nat} {row : Row} (hl : 4 ≤ s.inp.inLen)
    (hm : matchWord s.consts.itable s.inp.word = some (idx, row)) :
    s.fetch = .ok (Instr.ofRow idx row s.inp.word) := by
  unfold Inputs.word at hm
  rw [State.fetch, Inputs.span_of_four_le hl, decode, hm]
  rfl

/-- With fewer than four bytes a step reports insufficient input (60_exceptions R191). -/
theorem step_of_short {s : State} (ha : s.consts.admitted = true) (hl : s.inp.inLen < 4) :
    step s = .next s.signalInsufficient := by
  have hf : s.fetch = .error .insufficientInput := decode_short _ (Inputs.span_length_lt hl)
  unfold step
  rw [(State.refusal?_eq_none s).2 ha, hf]
  rfl

theorem eval_of_short (c : Constants) {x : Inputs} (hl : x.inLen < 4) : eval c x = some Outputs.insufficient :=
  if_pos hl

/-- With four bytes an evaluation shows the row MATCH gives, DECODE's record and RENDER's text, truncated. -/
theorem eval_of_match {c : Constants} {x : Inputs} {idx : Nat} {row : Row} (hl : 4 ≤ x.inLen)
    (hm : matchWord c.itable x.word = some (idx, row)) :
    eval c x = some (Outputs.decoded c.cap (row.ref idx) (if row = Row.sentinel then none else some row.mnemonic)
      (decodeFields x.word row.shape) (render c row (decodeFields x.word row.shape) x.pc)) := by
  unfold Inputs.word at hm ⊢
  simp only [eval, if_neg (Nat.not_lt.2 hl), hm, Outputs.decoded, decodeFields_shape, Row.ref]

/-- With four bytes a step reports the row MATCH gives, DECODE's record and RENDER's text. -/
theorem step_of_match {s : State} {idx : Nat} {row : Row} (ha : s.consts.admitted = true) (hl : 4 ≤ s.inp.inLen)
    (hm : matchWord s.consts.itable s.inp.word = some (idx, row)) :
    step s = .next (s.report (row.ref idx) (if row = Row.sentinel then none else some row.mnemonic)
      (decodeFields s.inp.word row.shape)
      (render s.consts row (decodeFields s.inp.word row.shape) s.inp.pc)) := by
  have ht : tableAdmitted s.consts.itable = true := ((Constants.admitted_iff s.consts).1 ha).1
  rw [step_of_fetch ha (fetch_of_match hl hm),
    exec_eq_render (wf_ofRow_of_match ht hm) (ref_ofRow idx row s.inp.word), ref_ofRow,
    mnemonicPort_ofRow_of_match ht hm, record_ofRow]

/-- A table that is not admitted is what a step looks at first. -/
theorem step_of_table_not_admitted {s : State} (h : tableAdmitted s.consts.itable = false) :
    step s = .refused .tableNotAdmitted := by
  have hr : s.refusal? = some .tableNotAdmitted := by simp [State.refusal?, h]
  rw [step, hr]

/-- Constants that are not admitted are refused. -/
theorem step_refused_of_not_admitted {s : State} (h : s.consts.admitted = false) : ∃ r, step s = .refused r := by
  cases hr : s.refusal? with
  | some r => exact ⟨r, by rw [step, hr]⟩
  | none => exact absurd ((State.refusal?_eq_none s).1 hr) (by simp [h])

end Sys2Proof.Machine
end

section
/-!
PROOFS. The statements on the scope of the model (spec/00_scope.md): one evaluation, the number texts, the sign
conversion, the admitted constants, the decoded instruction.
-/
namespace Sys2Proof.Machine

/-- Settles O44, by the two branches of the length check: below four bytes both sides report insufficient input, from
four on both report the row MATCH gives. -/
theorem stepIsEvaluation : Obligations.StepIsEvaluation := by
  intro s ha
  rcases Nat.lt_or_ge s.inp.inLen 4 with hl | hl
  · exact ⟨_, eval_of_short s.consts hl, step_of_short ha hl⟩
  · obtain ⟨idx, row, hm⟩ := matchWord_of_tableAdmitted ((Constants.admitted_iff s.consts).1 ha).1 s.inp.word
    exact ⟨_, eval_of_match hl hm, step_of_match ha hl hm⟩

/-- Settles O21, by the range and the congruence of `signedN`, to which `sextN` comes after the reduction. -/
theorem signConversion : Obligations.SignConversion := by
  intro n hn
  refine ⟨fun u hu => ?_, fun v => ?_⟩
  · obtain ⟨hlo, hhi⟩ := signedN_range hn hu
    exact ⟨rfl, hlo, hhi, signedN_emod hu⟩
  · obtain ⟨hlo, hhi⟩ := signedN_range hn (zextN_lt n v)
    exact ⟨rfl, zextN_eq_emod n v, hlo, hhi, sextN_emod n v⟩

/-- Settles O25, by what the digits of base 16 denote. -/
theorem hexTextDenotesNumber : Obligations.HexTextDenotesNumber := by
  intro v
  refine ⟨digitsValue_digits (by decide) (by decide) v, List.all_eq_true.2 fun c hc => ?_, digits_ne_nil 16 v,
    digits_head_zero (by decide) (by decide)⟩
  obtain ⟨d, hd, rfl⟩ := mem_digits (by decide) hc
  exact isHexDigit_digitChar hd

/-- Settles O26, by what the digits of base 10 denote, for the absolute value. -/
theorem decTextDenotesInteger : Obligations.DecTextDenotesInteger := by
  intro v
  refine ⟨digits 10 v.natAbs, ?_, digitsValue_digits (by decide) (by decide) _, digits_ne_nil 10 _,
    List.all_eq_true.2 fun c hc => ?_, fun h0 => ?_⟩
  · unfold dec
    split <;> rfl
  · obtain ⟨d, hd, rfl⟩ := mem_digits (by decide) hc
    simpa using digitChar_decimal hd
  · obtain ⟨hz, ht⟩ := digits_head_zero (by decide) (by decide) h0
    exact ⟨Int.natAbs_eq_zero.1 hz, ht⟩

/-- Settles O27, by the eight nibbles of the word. -/
theorem unknownTextShowsWholeWord : Obligations.UnknownTextShowsWholeWord :=
  ⟨fun v => ⟨hex8_length v, hex8_all_isHexDigit v, digitsValue_hex8 v⟩, fun _ _ => ⟨rfl, renderUnknown_injective⟩⟩

/-- Settles O38, by the two kinds of row MATCH can give under an admitted table. -/
theorem decodedIsWellFormed : Obligations.DecodedIsWellFormed := by
  intro c span i ht hd
  obtain ⟨b0, b1, b2, b3, rest, idx, row, rfl, hm, rfl⟩ := decode_ok hd
  generalize assembleWord b0 b1 b2 b3 = w at hm ⊢
  have hidx : (Instr.ofRow idx row w).ref.idx = idx := by rw [ref_ofRow]; rfl
  refine ⟨wf_ofRow_of_match ht hm, ?_⟩
  rw [hidx]
  rcases matchWord_row_cases ht hm with ⟨hlt, hrow⟩ | ⟨rfl, rfl⟩
  · have hsh : row.shape ≠ .unknown := ((Row.admitted_iff row).1 hrow).1
    obtain ⟨hsent, hunk⟩ := ofRow_of_shape_ne_unknown idx w hsh
    exact ⟨placedIn_ofRow hm (.inl hsh), hlt.le,
      ⟨fun he => absurd he hlt.ne, fun ⟨raw, he⟩ => absurd he (hsent _ raw)⟩, hunk⟩
  · exact ⟨placedIn_ofRow hm (.inr rfl), le_rfl, ⟨fun _ => ⟨w, rfl⟩, fun _ => rfl⟩,
      fun _ _ he => Instr.noConfusion he⟩

/-- Settles O46: with admitted constants a step is an evaluation, which is no refusal. -/
theorem onlyInadmissibleConstantsRefused : Obligations.OnlyInadmissibleConstantsRefused := by
  refine fun s => ⟨step_of_table_not_admitted, step_refused_of_not_admitted, fun ⟨r, hr⟩ => ?_⟩
  by_contra ha
  obtain ⟨o, -, hs⟩ := stepIsEvaluation s (by simpa using ha)
  rw [hr] at hs
  cases hs

/-- Settles O47, by the form of the table and the admission of a row, each said as a proposition. -/
theorem admittedTableForm : Obligations.AdmittedTableForm := by
  intro t
  simp only [tableAdmitted_iff, Row.admitted_iff]

/-- Settles O41: the four bytes are what the machine fetches. -/
theorem stepRunsDecodedInstruction : Obligations.StepRunsDecodedInstruction := by
  intro s i ha hl hd _
  refine step_of_fetch ha ?_
  rw [State.fetch, Inputs.span_of_four_le hl, hd]

end Sys2Proof.Machine
end

section
/-!
SUPPORT. What a text of the Renderer is made of (spec/42_renderer.md R141, R163, R166) and where `pc` enters it
(R148).
-/
namespace Sys2Proof.Machine

/-! ## Printable operands -/

@[simp] theorem textPrintable_dec (v : Int) : textPrintable (dec v) = true := by
  have hd : textPrintable (digits 10 v.natAbs) = true := textPrintable_digits (by decide) (by decide)
  unfold dec
  split
  · rw [← List.singleton_append, textPrintable_append, hd]
    rfl
  · exact hd

@[simp] theorem textPrintable_hex (v : Nat) : textPrintable (hex v) = true :=
  textPrintable_digits (by decide) (by decide)

@[simp] theorem textPrintable_hex8 (v : Nat) : textPrintable (hex8 v) = true := by
  rw [textPrintable, List.all_eq_true]
  intro c hc
  obtain ⟨d, hd, rfl⟩ := List.mem_map.1 (hex8_eq_nibbles v ▸ hc)
  exact charPrintable_digitChar (nibbles_lt (List.mem_reverse.1 hd))

@[simp] theorem textPrintable_hexMark : textPrintable (txt "0x") = true := by decide

/-- Every form of the immediate policy is printable (42_renderer R143). -/
@[simp] theorem textPrintable_imm (raw n : Nat) (q : Quirks) (pc : Addr) (alwaysSigned jumpOk : Bool) :
    textPrintable (imm raw n q pc alwaysSigned jumpOk) = true := by
  unfold imm
  split_ifs
  · simp only [textPrintable_append, textPrintable_hexMark, textPrintable_hex, Bool.and_self]
  · simp only [textPrintable_append, textPrintable_hexMark, textPrintable_hex, Bool.and_self]
  · exact textPrintable_dec _
  · exact textPrintable_dec _

theorem textPrintable_memOperand {offset base : Text} (ho : textPrintable offset = true)
    (hb : textPrintable base = true) : textPrintable (memOperand offset base) = true := by
  simp only [memOperand, textPrintable_append, ho, hb]
  decide

/-- An admitted register name is printable (10_state R24). -/
theorem textPrintable_of_nameOk {t : Text} (h : nameOk t = true) : textPrintable t = true := by
  simp only [nameOk, Bool.and_eq_true, List.all_eq_true] at h
  rw [textPrintable, List.all_eq_true]
  intro c hc
  obtain ⟨⟨⟨⟨hp, -⟩, -⟩, -⟩, -⟩ := h.2 c hc
  exact hp

/-- With admitted name tables every register is printable in both of them (42_renderer R140). -/
theorem textPrintable_regname {c : Constants} (h : c.namesAdmitted = true) (i : RegIdx) (fp : Bool) :
    textPrintable (regname c i fp) = true := by
  simp only [Constants.namesAdmitted, Bool.and_eq_true, List.all_eq_true] at h
  obtain ⟨⟨hg, hf⟩, -⟩ := h
  apply textPrintable_of_nameOk
  unfold regname
  split
  · exact hf _ (by simp)
  · exact hg _ (by simp)

/-! ## Lines -/

theorem textPrintable_commaJoin {ts : List Text} (h : ∀ t ∈ ts, textPrintable t = true) :
    textPrintable (commaJoin ts) = true := by
  induction ts with
  | nil => rfl
  | cons t ts ih =>
    cases ts with
    | nil => exact h t (by simp)
    | cons t' ts =>
      have hrest : textPrintable (commaJoin (t' :: ts)) = true := ih fun x hx => h x (by simp [hx])
      simp only [commaJoin, textPrintable_append, h t (by simp), hrest]
      decide

theorem textPrintable_line {m : Text} {operands : List Text} (hm : textPrintable m = true)
    (h : ∀ t ∈ operands, textPrintable t = true) : textPrintable (line m operands) = true := by
  simp only [line, textPrintable_append, hm, textPrintable_commaJoin h]
  decide

/-- A line holds at least the space after the mnemonic (42_renderer R141). -/
theorem line_ne_nil (m : Text) (operands : List Text) : line m operands ≠ [] := by
  simp [line, txt]

/-- A text is a line of the row's mnemonic and printable operands, or shows the raw word (42_renderer R151 to R163). -/
theorem render_eq_line_or_unknown {c : Constants} (hn : c.namesAdmitted = true) (row : Row) (rec : Record)
    (pc : Addr) :
    (∃ operands, render c row rec pc = line row.mnemonic operands ∧ ∀ t ∈ operands, textPrintable t = true) ∨
      ∃ raw, render c row rec pc = renderUnknown raw := by
  have hreg := textPrintable_regname hn
  cases rec with
  | unknown raw => exact .inr ⟨raw, rfl⟩
  | rri12 | rri14 =>
    simp only [render, renderRri12, renderRri14]
    left
    split
    · exact ⟨_, rfl, by simp [operandD, operandJ, hreg, textPrintable_memOperand]⟩
    · exact ⟨_, rfl, by simp [operandD, operandJ, hreg]⟩
  | _ => exact .inl ⟨_, rfl, by simp [operandD, operandJ, operandK, operandA, hreg]⟩

@[simp] theorem textPrintable_renderUnknown (raw : Word) : textPrintable (renderUnknown raw) = true := by
  simp only [renderUnknown, textPrintable_append, textPrintable_hex8]
  decide

theorem renderUnknown_ne_nil (raw : Word) : renderUnknown raw ≠ [] := by
  simp [renderUnknown, txt]

/-- The text of a word is printable, when the names and the mnemonic are (42_renderer R166). -/
theorem textPrintable_render {c : Constants} (hn : c.namesAdmitted = true) {row : Row}
    (hm : textPrintable row.mnemonic = true) (rec : Record) (pc : Addr) :
    textPrintable (render c row rec pc) = true := by
  rcases render_eq_line_or_unknown hn row rec pc with ⟨operands, hr, hops⟩ | ⟨raw, hr⟩
  · rw [hr]
    exact textPrintable_line hm hops
  · rw [hr]
    exact textPrintable_renderUnknown raw

/-- No word has an empty text (42_renderer R171). -/
theorem render_ne_nil {c : Constants} (hn : c.namesAdmitted = true) (row : Row) (rec : Record) (pc : Addr) :
    render c row rec pc ≠ [] := by
  rcases render_eq_line_or_unknown hn row rec pc with ⟨operands, hr, -⟩ | ⟨raw, hr⟩
  · rw [hr]
    exact line_ne_nil _ _
  · rw [hr]
    exact renderUnknown_ne_nil raw

/-! ## Where `pc` enters -/

/-- The shapes on which `JUMP` acts (42_renderer R148, R150). -/
theorem honours_jump_iff (sh : Shape) : sh.honours .jump = true ↔ sh = .rri16 ∨ sh = .ri21 ∨ sh = .i25 := by
  cases sh <;> decide

/-- Without an effective `JUMP` an immediate does not show `pc`. -/
theorem imm_congr_pc {q : Quirks} {jumpOk : Bool} (h : (q.jump && jumpOk) = false) (raw n : Nat) (pc pc' : Addr)
    (alwaysSigned : Bool) : imm raw n q pc alwaysSigned jumpOk = imm raw n q pc' alwaysSigned jumpOk := by
  simp [imm, h]

/-- Without `JUMP` on a shape that honours it the text does not show `pc` (42_renderer R148). -/
theorem render_congr_pc {row : Row} {rec : Record} (h : (row.quirks.jump && rec.shape.honours .jump) = false)
    (c : Constants) (pc pc' : Addr) : render c row rec pc = render c row rec pc' := by
  cases rec with
  | rr | rrr | ffff | unknown => rfl
  | rri16 | ri21 | i25 =>
    have hoff : (row.quirks.jump && true) = false := h
    simp only [render, renderRri16, renderRi21, renderI25, imm_congr_pc hoff _ _ pc pc']
  | _ =>
    have hoff : (row.quirks.jump && false) = false := h
    simp only [render, renderRri6, renderRri8, renderRri12, renderRri6i6, renderRri14, renderAui20,
      imm_congr_pc hoff _ _ pc pc']

end Sys2Proof.Machine
end

section
/-!
SUPPORT. What one step makes of the state, from its evaluation (spec/10_state.md R20, R29, R35), and the host's walk,
step by step (R26).
-/
namespace Sys2Proof.Machine

/-! ## One step -/

/-- A step answers exactly the evaluation of its inputs on the output ports, under admitted constants. -/
theorem step_eq_next_iff {s t : State} : step s = .next t ↔
    s.consts.admitted = true ∧ ∃ o, eval s.consts s.inp = some o ∧ t = s.setOut o := by
  constructor
  · intro h
    have ha := (step_cases h).1
    obtain ⟨o, ho, hs⟩ := stepIsEvaluation s ha
    rw [hs] at h
    cases h
    exact ⟨ha, o, ho, rfl⟩
  · rintro ⟨ha, o, ho, rfl⟩
    obtain ⟨o', ho', hs⟩ := stepIsEvaluation s ha
    cases ho.symm.trans ho'
    exact hs

/-- An evaluation looks at `pc`, at whether there are four bytes, and at the four when there are (10_state R35). -/
theorem eval_congr {c : Constants} {x x' : Inputs} (hpc : x.pc = x'.pc) (hlen : 4 ≤ x.inLen ↔ 4 ≤ x'.inLen)
    (hword : 4 ≤ x.inLen → x.word = x'.word) : eval c x = eval c x' := by
  rcases Nat.lt_or_ge x.inLen 4 with hl | hl
  · rw [eval_of_short c hl, eval_of_short c (by omega)]
  · have hw := hword hl
    unfold Inputs.word at hw
    simp only [eval, if_neg (Nat.not_lt.2 hl), if_neg (Nat.not_lt.2 (hlen.1 hl)), hw, hpc]

/-- What a step reports: insufficient input, or the row MATCH gives with DECODE's record and RENDER's text. -/
theorem step_reports {s t : State} (h : step s = .next t) :
    (s.inp.inLen < 4 ∧ t = s.signalInsufficient) ∨
      (4 ≤ s.inp.inLen ∧ ∃ idx row, matchWord s.consts.itable s.inp.word = some (idx, row) ∧
        t = s.report (row.ref idx) (if row = Row.sentinel then none else some row.mnemonic)
          (decodeFields s.inp.word row.shape) (render s.consts row (decodeFields s.inp.word row.shape) s.inp.pc)) := by
  have ha := (step_cases h).1
  rcases Nat.lt_or_ge s.inp.inLen 4 with hl | hl
  · rw [step_of_short ha hl] at h
    cases h
    exact .inl ⟨hl, rfl⟩
  · obtain ⟨idx, row, hm⟩ := matchWord_of_tableAdmitted ((Constants.admitted_iff _).1 ha).1 s.inp.word
    rw [step_of_match ha hl hm] at h
    cases h
    exact .inr ⟨hl, idx, row, hm, rfl⟩

theorem shortInput_insufficient : Outputs.insufficient.ShortInput := ⟨rfl, rfl, rfl, rfl, rfl, rfl, rfl, rfl⟩

/-! ## Consistent outputs -/

/-- The mnemonic of the row MATCH gives is printable; the sentinel's is empty (42_renderer R166). -/
theorem textPrintable_mnemonic_of_match {t : List Row} {w : Word} {idx : Nat} {row : Row}
    (h : tableAdmitted t = true) (hm : matchWord t w = some (idx, row)) : textPrintable row.mnemonic = true := by
  rcases matchWord_row_cases h hm with ⟨-, hrow⟩ | ⟨-, rfl⟩
  · obtain ⟨-, -, -, hp⟩ := (Row.admitted_iff row).1 hrow
    exact hp
  · rfl

/-- Of the rows MATCH gives, the one at `N_ROWS` alone has shape `UNKNOWN` (40_matcher R107). -/
theorem idx_eq_nRows_iff_of_match {c : Constants} {w : Word} {idx : Nat} {row : Row}
    (h : tableAdmitted c.itable = true) (hm : matchWord c.itable w = some (idx, row)) :
    idx ≤ c.nRows ∧ (idx = c.nRows ↔ row.shape = .unknown) := by
  unfold Constants.nRows
  rcases matchWord_row_cases h hm with ⟨hlt, hrow⟩ | ⟨rfl, rfl⟩
  · exact ⟨hlt.le, iff_of_false hlt.ne ((Row.admitted_iff row).1 hrow).1⟩
  · exact ⟨le_rfl, iff_of_true rfl rfl⟩

/-- The row MATCH gives stands in the table at its number (40_matcher R100). -/
theorem getElem?_of_match {t : List Row} {w : Word} {idx : Nat} {row : Row} (hm : matchWord t w = some (idx, row)) :
    t[idx]? = some row := by
  obtain ⟨k, rfl, hk, -, -⟩ := matchFrom_some hm
  rwa [Nat.zero_add]

/-- The report of a matched row with a text that is not empty shows one decoded word. -/
theorem oneWord_decoded {c : Constants} {w : Word} {idx : Nat} {row : Row} {full : Text} (ha : c.admitted = true)
    (hm : matchWord c.itable w = some (idx, row)) (hfull : full ≠ []) :
    (Outputs.decoded c.cap (row.ref idx) (if row = Row.sentinel then none else some row.mnemonic)
      (decodeFields w row.shape) full).OneWord c := by
  obtain ⟨ht, -, hcap⟩ := (Constants.admitted_iff c).1 ha
  obtain ⟨hle, hiff⟩ := idx_eq_nRows_iff_of_match ht hm
  exact
    { consumed := rfl
      row := ⟨idx, row, _, getElem?_of_match hm, hle, rfl, by simp, rfl, rfl, rfl, decodeFields_shape _ _, hiff⟩
      textNonempty := by simp [hfull, Nat.ne_of_gt hcap]
      textLen := by simp
      bounded := Nat.min_le_left _ _ }

/-- Every step establishes the invariant, from any state it answers for. -/
theorem step_inv {s t : State} (h : step s = .next t) : t.Inv := by
  have ha := (step_cases h).1
  obtain ⟨ht, hn, -⟩ := (Constants.admitted_iff _).1 ha
  rcases step_reports h with ⟨-, rfl⟩ | ⟨-, idx, row, hm, rfl⟩
  · exact ⟨ha, rfl, .inl shortInput_insufficient⟩
  · have hfull := textPrintable_render hn (textPrintable_mnemonic_of_match ht hm) (decodeFields s.inp.word row.shape)
      s.inp.pc
    refine ⟨ha, ?_, .inr (oneWord_decoded ha hm (render_ne_nil hn _ _ _))⟩
    rw [textPrintable, List.all_eq_true] at hfull ⊢
    exact fun c hc => hfull c (List.mem_of_mem_take hc)

/-! ## The walk -/

/-- With admitted constants a step on a whole word consumes it. -/
theorem step_present_of_word {s : State} (ha : s.consts.admitted = true) {span : List Byte} (pc : Addr)
    (hl : 4 ≤ span.length) : ∃ t, step (s.present span pc) = .next t ∧ t.out.consumed = 4 := by
  obtain ⟨o, -, hs⟩ := stepIsEvaluation (s.present span pc) ha
  refine ⟨_, hs, ?_⟩
  rcases step_reports hs with ⟨hshort, -⟩ | ⟨-, idx, row, -, ht⟩
  · exact absurd hl (Nat.not_le.2 hshort)
  · rw [ht]
    rfl

/-- What entry `k` of a walk over `span` from `pc` is, `a` being its `pc` and `o` its outputs (10_state R26). -/
def IsWalkEntry (s : State) (span : List Byte) (pc : Addr) (k : Nat) (a : Addr) (o : Outputs) : Prop :=
  a = pc + BitVec.ofNat 64 (4 * k) ∧
    (∃ t, step (s.present (span.drop (4 * k)) a) = .next t ∧ t.out = o) ∧
    (o.consumed = 4 ↔ k < span.length / 4) ∧ (k = span.length / 4 → o.ShortInput)

/-- One word on and then `k` words is `k + 1` words on, modulo `2^64`. -/
theorem pc_add_word (pc : Addr) (k : Nat) :
    pc + 4 + BitVec.ofNat 64 (4 * k) = pc + BitVec.ofNat 64 (4 * (k + 1)) := by
  rw [BitVec.add_assoc, Nat.mul_succ, Nat.add_comm (4 * k) 4, BitVec.ofNat_add]
  rfl

/-- An entry of the walk over the rest after one word is the next entry of the whole walk. -/
theorem IsWalkEntry.of_drop {s : State} {span : List Byte} {pc : Addr} {k : Nat} {a : Addr} {o : Outputs}
    (h : IsWalkEntry s (span.drop 4) (pc + 4) k a o) (hl : 4 ≤ span.length) :
    IsWalkEntry s span pc (k + 1) a o := by
  obtain ⟨ha, hstep, hword, hrest⟩ := h
  rw [List.length_drop] at hword hrest
  rw [List.drop_drop, Nat.add_comm] at hstep
  exact ⟨ha.trans (pc_add_word pc k), hstep, hword.trans (by omega), fun hk => hrest (by omega)⟩

/-- On a short rest the walk stops, with one entry. -/
theorem walk_of_short {s : State} (ha : s.consts.admitted = true) {span : List Byte} (pc : Addr)
    (hl : span.length < 4) (fuel : Nat) :
    walk s (fuel + 1) span pc = .next ([(pc, Outputs.insufficient)], pc) ∧
      IsWalkEntry s span pc 0 pc Outputs.insufficient := by
  have hs : step (s.present span pc) = .next (s.present span pc).signalInsufficient := step_of_short ha hl
  have hc : Outputs.insufficient.consumed ≠ 4 := by decide
  constructor
  · simp [walk, hs, hc]
  · exact ⟨by simp, ⟨_, by simpa using hs, rfl⟩, iff_of_false hc (by omega), fun _ => shortInput_insufficient⟩

/-- The walk over `n` words and a short rest, for every length of the span. -/
theorem walk_of_words {s : State} (ha : s.consts.admitted = true) (n : Nat) :
    ∀ (span : List Byte) (pc : Addr), span.length / 4 = n →
      ∃ log, walk s (n + 1) span pc = .next (log, pc + BitVec.ofNat 64 (4 * n)) ∧ log.length = n + 1 ∧
        ∀ k a o, log[k]? = some (a, o) → IsWalkEntry s span pc k a o := by
  induction n with
  | zero =>
    intro span pc hn
    obtain ⟨hw, hentry⟩ := walk_of_short ha pc (by omega : span.length < 4) 0
    refine ⟨_, by simpa using hw, rfl, fun k a o hk => ?_⟩
    cases k with
    | zero => cases hk; exact hentry
    | succ k => simp at hk
  | succ n ih =>
    intro span pc hn
    have hl : 4 ≤ span.length := by omega
    obtain ⟨t, ht, hc⟩ := step_present_of_word ha pc hl
    obtain ⟨log, hw, hlen, hlog⟩ := ih (span.drop 4) (pc + 4) (by rw [List.length_drop]; omega)
    refine ⟨(pc, t.out) :: log, ?_, by simp [hlen], fun k a o hk => ?_⟩
    · rw [walk, ht]
      simp only [hc, if_true, hw, pc_add_word]
    · cases k with
      | zero =>
        cases hk
        exact ⟨by simp, ⟨t, by simpa using ht, rfl⟩, iff_of_true hc (by omega), fun h0 => by omega⟩
      | succ k => exact (hlog k a o hk).of_drop hl

end Sys2Proof.Machine
end

section
/-!
PROOFS. The statements on the state of the machine (spec/10_state.md): what a step changes and what it depends on,
`pc`, the invariant of the output ports, the host's walk.
-/
namespace Sys2Proof.Machine

/-- Settles O52, by the two things a step can report. -/
theorem everyStepKeepsOutputsConsistent : Obligations.EveryStepKeepsOutputsConsistent :=
  fun _ _ h => step_inv h

/-- Settles O24: the sum taken modulo `2^64` is the sum of bit vectors, and `4` divides `2^64`. -/
theorem jumpTargetWraps : Obligations.JumpTargetWraps := by
  intro pc offset
  have hsum : jumpTarget pc offset = (BitVec.ofInt 64 (pc.toNat + 4 * offset)).toNat := by
    rw [BitVec.toNat_ofInt]
    rfl
  have hmod : (jumpTarget pc offset : Int) = (pc.toNat + 4 * offset) % 2 ^ 64 := zextN_eq_emod 64 _
  refine ⟨?_, zextN_lt 64 _, by omega⟩
  rw [hsum, BitVec.ofInt_add, BitVec.ofInt_mul, BitVec.ofInt_natCast, BitVec.ofNat_toNat, BitVec.setWidth_eq]
  rfl

/-- Settles O48: a step sets the output ports. -/
theorem stepKeepsConstantsAndInputs : Obligations.StepKeepsConstantsAndInputs := by
  intro s t h
  obtain ⟨-, o, -, rfl⟩ := step_eq_next_iff.1 h
  exact ⟨rfl, rfl, rfl⟩

/-- Settles O49: the two states have the same evaluation. -/
theorem outputsDependOnInputsAlone : Obligations.OutputsDependOnInputsAlone := by
  intro s s' t hc hpc hlen hbytes h
  obtain ⟨ha, o, ho, rfl⟩ := step_eq_next_iff.1 h
  have hword : 4 ≤ s.inp.inLen → s.inp.word = s'.inp.word := by
    intro hl
    obtain ⟨h0, h1, h2, h3⟩ := hbytes hl
    simp only [Inputs.word, h0, h1, h2, h3]
  rw [hc] at ha ho
  rw [eval_congr hpc hlen hword] at ho
  exact ⟨s'.setOut o, step_eq_next_iff.2 ⟨ha, o, ho, rfl⟩, rfl⟩

/-- Settles O50: `pc` enters through RENDER alone, and there only under an effective `JUMP`. -/
theorem pcMovesJumpTargetsOnly : Obligations.PcMovesJumpTargetsOnly := by
  intro s t pc' h
  have ha := (step_cases h).1
  rcases step_reports h with ⟨hl, rfl⟩ | ⟨hl, idx, row, hm, rfl⟩
  · exact ⟨_, step_of_short ha hl, rfl, fun hne => absurd rfl hne⟩
  · refine ⟨_, step_of_match (s := { s with inp := { s.inp with pc := pc' } }) ha hl hm, rfl, fun hne => ?_⟩
    cases hj : row.quirks.jump && row.shape.honours .jump with
    | false =>
      rw [← decodeFields_shape s.inp.word row.shape] at hj
      refine absurd ?_ hne
      simp only [State.report_out]
      rw [render_congr_pc hj s.consts s.inp.pc pc']
      rfl
    | true =>
      obtain ⟨hjump, hacts⟩ := Bool.and_eq_true_iff.1 hj
      exact ⟨row.quirks, row.shape, rfl, hjump, by simp, (honours_jump_iff _).1 hacts⟩

/-- Settles O51: the state after an evaluation has the same constants and inputs, so the same evaluation. -/
theorem retryingChangesNothing : Obligations.RetryingChangesNothing := by
  intro s t h
  obtain ⟨ha, o, ho, rfl⟩ := step_eq_next_iff.1 h
  exact step_eq_next_iff.2 ⟨ha, o, ho, rfl⟩

/-- Settles O60, by induction on the number of whole words. -/
theorem walkVisitsEveryWord : Obligations.WalkVisitsEveryWord :=
  fun _ span pc ha => walk_of_words ha (span.length / 4) span pc rfl

/-- Settles O53: reset holds admitted constants, no byte on the input ports, and the outputs of insufficient input. -/
theorem resetOutputsConsistent : Obligations.ResetOutputsConsistent :=
  ⟨⟨by decide, rfl, .inl shortInput_insufficient⟩, eval_of_short _ (by decide)⟩

end Sys2Proof.Machine
end

section
/-!
SUPPORT. The little-endian word as a number (spec/20_memory.md R42), and the decoder on a span of four bytes or more
(R41, R44).
-/
namespace Sys2Proof

/-! ## The word as a number -/

/-- A field placed above all the bits of a word adds its multiple of the place. -/
theorem toNat_or_place {k p : Nat} {w : Word} (x : BitVec k) (hw : w.toNat < 2 ^ p) (h : p + k ≤ 32) :
    (w ||| place x p).toNat = w.toNat + 2 ^ p * x.toNat := by
  have hx : x.toNat * 2 ^ p < 2 ^ 32 :=
    calc x.toNat * 2 ^ p < 2 ^ k * 2 ^ p := Nat.mul_lt_mul_of_pos_right x.isLt (Nat.two_pow_pos p)
      _ = 2 ^ (p + k) := by rw [Nat.add_comm, Nat.pow_add]
      _ ≤ 2 ^ 32 := Nat.pow_le_pow_right (by decide) h
  have hplace : (place x p).toNat = 2 ^ p * x.toNat := by
    rw [place, BitVec.toNat_shiftLeft, BitVec.toNat_setWidth_of_le (by omega), Nat.shiftLeft_eq,
      Nat.mod_eq_of_lt hx, Nat.mul_comm]
  rw [BitVec.toNat_or, hplace, Nat.or_comm, ← Nat.two_pow_add_eq_or_of_lt hw, Nat.add_comm]

/-- The four bytes are the digits of the word in base 256, the least significant first (20_memory R42). -/
theorem toNat_assembleWord (b0 b1 b2 b3 : Byte) :
    (assembleWord b0 b1 b2 b3).toNat = b0.toNat + 2 ^ 8 * b1.toNat + 2 ^ 16 * b2.toNat + 2 ^ 24 * b3.toNat := by
  have h0 : (place b0 0).toNat = b0.toNat := by simp [place]; omega
  have h1 := toNat_or_place (p := 8) (w := place b0 0) b1 (by omega) (by decide)
  have h2 := toNat_or_place (p := 16) (w := place b0 0 ||| place b1 8) b2 (by omega) (by decide)
  have h3 := toNat_or_place (p := 24) (w := place b0 0 ||| place b1 8 ||| place b2 16) b3 (by omega) (by decide)
  rw [assembleWord_eq_place, h3, h2, h1, h0]

/-- Byte `k` of a word is its digit `k` in base 256. -/
theorem toNat_byteOf (w : Word) (k : Nat) : (byteOf w k).toNat = w.toNat / 2 ^ (8 * k) % 2 ^ 8 := by
  rw [byteOf, BitVec.extractLsb'_toNat, Nat.shiftRight_eq_div_pow]

/-- The bytes of an assembled word are the bytes it was assembled from (20_memory R42). -/
theorem wordBytes_assembleWord (b0 b1 b2 b3 : Byte) : wordBytes (assembleWord b0 b1 b2 b3) = [b0, b1, b2, b3] := by
  have hw := toNat_assembleWord b0 b1 b2 b3
  have hbyte {k : Nat} {b : Byte} (h : (assembleWord b0 b1 b2 b3).toNat / 2 ^ (8 * k) % 2 ^ 8 = b.toNat) :
      byteOf (assembleWord b0 b1 b2 b3) k = b := BitVec.eq_of_toNat_eq ((toNat_byteOf _ k).trans h)
  rw [wordBytes, hbyte (k := 0) (b := b0) (by omega), hbyte (k := 1) (b := b1) (by omega),
    hbyte (k := 2) (b := b2) (by omega), hbyte (k := 3) (b := b3) (by omega)]

/-- A word is assembled from its own bytes (20_memory R42). -/
theorem assembleWord_byteOf (w : Word) : assembleWord (byteOf w 0) (byteOf w 1) (byteOf w 2) (byteOf w 3) = w := by
  apply BitVec.eq_of_toNat_eq
  simp only [toNat_assembleWord, toNat_byteOf]
  omega

/-- The opcode is the high six bits of the last byte (20_memory R42). -/
theorem toNat_opcodeOf_assembleWord (b0 b1 b2 b3 : Byte) :
    (opcodeOf (assembleWord b0 b1 b2 b3)).toNat = b3.toNat / 4 := by
  rw [opcodeOf, BitVec.extractLsb'_toNat, Nat.shiftRight_eq_div_pow, toNat_assembleWord]
  omega

/-- `rd` is the low five bits of the first byte (20_memory R42). -/
theorem toNat_rdOf_assembleWord (b0 b1 b2 b3 : Byte) :
    (rdOf (assembleWord b0 b1 b2 b3)).toNat = b0.toNat % 32 := by
  rw [rdOf, BitVec.extractLsb'_toNat, Nat.shiftRight_zero, toNat_assembleWord]
  omega

/-! ## A span of four bytes or more -/

/-- A span of at least four bytes has a first word. -/
theorem exists_bytes_of_four_le {span : List Byte} (h : 4 ≤ span.length) :
    ∃ b0 b1 b2 b3 rest, span = b0 :: b1 :: b2 :: b3 :: rest := by
  match span, h with
  | b0 :: b1 :: b2 :: b3 :: rest, _ => exact ⟨b0, b1, b2, b3, rest, rfl⟩

/-- The decoder does not look beyond the fourth byte (20_memory R41). -/
theorem decode_take_four (t : List Row) {span : List Byte} (h : 4 ≤ span.length) :
    decode t span = decode t (span.take 4) := by
  obtain ⟨b0, b1, b2, b3, rest, rfl⟩ := exists_bytes_of_four_le h
  rfl

/-- The word of the first four bytes is decoded by the row MATCH gives for it. -/
theorem decode_of_match {t : List Row} {b0 b1 b2 b3 : Byte} {idx : Nat} {row : Row}
    (hm : matchWord t (assembleWord b0 b1 b2 b3) = some (idx, row)) (rest : List Byte) :
    decode t (b0 :: b1 :: b2 :: b3 :: rest) = .ok (Instr.ofRow idx row (assembleWord b0 b1 b2 b3)) := by
  rw [decode, hm]

/-- A span of at least four bytes is never insufficient, whatever the table (20_memory R44). -/
theorem decode_ne_insufficientInput (t : List Row) {span : List Byte} (h : 4 ≤ span.length) :
    decode t span ≠ .error .insufficientInput := by
  obtain ⟨b0, b1, b2, b3, rest, rfl⟩ := exists_bytes_of_four_le h
  cases hm : matchWord t (assembleWord b0 b1 b2 b3) with
  | some p => simp [decode_of_match hm]
  | none => simp [decode, hm]

end Sys2Proof
end

section
/-!
PROOFS. The statements on the bytes of an instruction (spec/20_memory.md): the little-endian word, the bytes of a decoded
instruction, which spans the decoder takes.
-/
namespace Sys2Proof.Machine

/-- Settles O35, by the word as a number in base 256. -/
theorem wordIsLittleEndian : Obligations.WordIsLittleEndian :=
  ⟨fun b0 b1 b2 b3 => ⟨toNat_assembleWord b0 b1 b2 b3, wordBytes_assembleWord b0 b1 b2 b3,
    toNat_opcodeOf_assembleWord b0 b1 b2 b3, toNat_rdOf_assembleWord b0 b1 b2 b3⟩,
    assembleWord_byteOf, by decide, by decide⟩

/-- Settles O37: the encoded word is the one assembled from the first four bytes. -/
theorem encodeOfDecode : Obligations.EncodeOfDecode := by
  intro t span i h
  obtain ⟨b0, b1, b2, b3, rest, idx, row, rfl, -, rfl⟩ := decode_ok h
  rw [encode_ofRow, wordBytes_assembleWord]
  rfl

/-- Settles O39, by the length of the span and, from four bytes on, the answer of MATCH. -/
theorem decoderIsTotal : Obligations.DecoderIsTotal := by
  refine fun t span => ⟨⟨fun h => ?_, decode_short t⟩, decode_take_four t, fun ht hl => ?_⟩
  · by_contra hl
    exact decode_ne_insufficientInput t (Nat.le_of_not_lt hl) h
  · obtain ⟨b0, b1, b2, b3, rest, rfl⟩ := exists_bytes_of_four_le hl
    obtain ⟨idx, row, hm⟩ := matchWord_of_tableAdmitted ht (assembleWord b0 b1 b2 b3)
    exact ⟨_, decode_of_match hm rest⟩

end Sys2Proof.Machine
end

section
/-!
SUPPORT. The matching predicate and the mask invariant of a row (spec/30_encoding.md R86), and the quirk byte by its
bits (R85).
-/
namespace Sys2Proof

/-! ## The mask invariant -/

/-- The matching predicate as a proposition (30_encoding R86). -/
theorem Row.recognises_iff (r : Row) (w : Word) : r.recognises w = true ↔ w &&& r.mask = r.matchBits := by
  rw [Row.recognises, beq_iff_eq]

/-- A row that recognises a word keeps the mask invariant: what the mask lets through has no bit outside the mask. -/
theorem Row.match_within_mask_of_recognises {r : Row} {w : Word} (h : r.recognises w = true) :
    r.matchBits &&& ~~~r.mask = 0 := by
  rw [← (r.recognises_iff w).1 h, BitVec.and_assoc, BitVec.and_not_self]
  exact BitVec.and_zero

/-- Every row of an admitted table keeps the mask invariant, the sentinel included (00_scope R9 (b); 30_encoding
R87). -/
theorem match_within_mask_of_mem {t : List Row} {r : Row} (ht : tableAdmitted t = true) (hr : r ∈ t) :
    r.matchBits &&& ~~~r.mask = 0 := by
  obtain ⟨rows, rfl, hrows⟩ := (tableAdmitted_iff t).1 ht
  rcases List.mem_append.1 hr with hmem | hlast
  · obtain ⟨-, hmask, -⟩ := (Row.admitted_iff r).1 (hrows r hmem)
    exact hmask
  · obtain rfl := List.mem_singleton.1 hlast
    exact Row.match_within_mask_of_recognises (sentinel_recognises 0)

/-! ## The quirk byte -/

/-- Each flag stands in the quirk byte at its own bit number (30_encoding R85). -/
theorem Quirks.getLsbD_code (q : Quirks) (f : QuirkFlag) : q.code.getLsbD f.bit = q.has f := by
  simp only [Quirks.code, BitVec.getLsbD_append]
  cases f <;> simp [QuirkFlag.bit, Quirks.has]

/-- A quirk bitset is its eight flags. -/
theorem Quirks.eq_of_has_eq {q q' : Quirks} (h : ∀ f, q.has f = q'.has f) : q = q' := by
  obtain ⟨hex, jump, minus32, shl2, fprD, fprJ, fprK, ldst⟩ := q
  obtain rfl : hex = q'.hex := h .hex
  obtain rfl : jump = q'.jump := h .jump
  obtain rfl : minus32 = q'.minus32 := h .minus32
  obtain rfl : shl2 = q'.shl2 := h .shl2
  obtain rfl : fprD = q'.fprD := h .fprD
  obtain rfl : fprJ = q'.fprJ := h .fprJ
  obtain rfl : fprK = q'.fprK := h .fprK
  obtain rfl : ldst = q'.ldst := h .ldst
  rfl

/-- The quirk byte determines the bitset: each flag can be read back from it. -/
theorem Quirks.code_injective {q q' : Quirks} (h : q.code = q'.code) : q = q' :=
  Quirks.eq_of_has_eq fun f => by rw [← q.getLsbD_code f, h, q'.getLsbD_code f]

end Sys2Proof
end

section
/-!
PROOFS. The statements on the encoding (spec/30_encoding.md): what a row recognises, the codes of the shapes and of the
quirk flags.
-/
namespace Sys2Proof.Machine

/-- Settles O31, by the mask invariant: a row that recognises a word keeps it, and so does a row of an admitted
table. -/
theorem rowRecognition : Obligations.RowRecognition := by
  refine fun r => ⟨r.recognises_iff, fun hbreaks => ⟨fun w => ?_, fun t hr => ?_⟩⟩
  · exact Bool.eq_false_iff.2 fun hw => hbreaks (Row.match_within_mask_of_recognises hw)
  · exact Bool.eq_false_iff.2 fun ht => hbreaks (match_within_mask_of_mem ht hr)

/-- Settles O57: the listings evaluate to the two ranges and leave no constructor out, and the quirk byte is read bit by
bit. -/
theorem portCodesInListingOrder : Obligations.PortCodesInListingOrder := by
  refine ⟨rfl, fun sh => ?_, rfl, fun f => ?_, Quirks.getLsbD_code, fun _ _ => Quirks.code_injective⟩
  · cases sh <;> decide
  · cases f <;> decide

end Sys2Proof.Machine
end

section
/-!
SUPPORT. MATCH as the least row that recognises the word (spec/40_matcher.md R100), the mask test of a shadowed row (R102),
and what the decoder makes of an encoded word under the row MATCH gives (spec/41_field_decoder.md R138).
-/
namespace Sys2Proof

/-! ## The first row -/

/-- The row MATCH gives is row `i` of the table, recognises the word, and is the first that does (40_matcher R100). -/
theorem first_of_matchWord {t : List Row} {w : Word} {i : Nat} {r : Row} (h : matchWord t w = some (i, r)) :
    t[i]? = some r ∧ r.recognises w = true ∧ ∀ k r', k < i → t[k]? = some r' → r'.recognises w = false := by
  obtain ⟨k, rfl, hfirst⟩ := matchFrom_some h
  rwa [Nat.zero_add]

/-- MATCH answers with the least row that recognises the word, and only with it (40_matcher R100). -/
theorem matchWord_eq_some_iff {t : List Row} {w : Word} {i : Nat} {r : Row} : matchWord t w = some (i, r) ↔
    t[i]? = some r ∧ r.recognises w = true ∧ ∀ k r', k < i → t[k]? = some r' → r'.recognises w = false := by
  refine ⟨first_of_matchWord, fun ⟨hi, hr, hmin⟩ => ?_⟩
  cases hm : matchWord t w with
  | none => simp [matchFrom_none.1 hm r (List.mem_of_getElem? hi)] at hr
  | some p =>
    obtain ⟨j, s⟩ := p
    obtain ⟨hj, hs, hmin'⟩ := first_of_matchWord hm
    rcases Nat.lt_trichotomy i j with hlt | rfl | hgt
    · simp [hmin' i r hlt hi] at hr
    · rw [Option.some.inj (hj.symm.trans hi)]
    · simp [hmin j s hgt hj] at hs

/-- A row whose mask lies within another's and agrees with it there recognises all the other does (40_matcher R102). -/
theorem Row.recognises_of_shadows {k i : Row} (h : k.shadows i = true) {w : Word} (hw : i.recognises w = true) :
    k.recognises w = true := by
  simp only [Row.shadows, Bool.and_eq_true, beq_iff_eq] at h
  obtain ⟨hwithin, hagree⟩ := h
  have hmask : i.mask &&& k.mask = k.mask := by
    apply BitVec.eq_of_getLsbD_eq
    intro n hn
    have hbit : k.mask.getLsbD n = true → i.mask.getLsbD n = true := by
      simpa [hn] using congrArg (BitVec.getLsbD · n) hwithin
    rw [BitVec.getLsbD_and, Bool.and_eq_right_iff_imp]
    exact hbit
  rw [Row.recognises_iff] at hw ⊢
  calc w &&& k.mask = w &&& i.mask &&& k.mask := by rw [BitVec.and_assoc, hmask]
    _ = k.matchBits := by rw [hw, hagree]

/-! ## The instruction of an encoded word -/

/-- DECODE under an instruction's shape gives back, from its encoded word, its record (41_field_decoder R138). -/
theorem decodeFields_encode (i : Instr) : decodeFields (encode i) i.shape = i.record := by
  cases i with
  | rr => exact Laws.EncodedFields.rr ..
  | rrr => exact Laws.EncodedFields.rrr ..
  | ffff => exact Laws.EncodedFields.ffff ..
  | rri6 => exact Laws.EncodedFields.rri6 ..
  | rri8 => exact Laws.EncodedFields.rri8 ..
  | rri12 => exact Laws.EncodedFields.rri12 ..
  | rri6i6 => exact Laws.EncodedFields.rri6i6 ..
  | rri14 => exact Laws.EncodedFields.rri14 ..
  | rri16 => exact Laws.EncodedFields.rri16 ..
  | aui20 => exact Laws.EncodedFields.aui20 ..
  | ri21 => exact Laws.EncodedFields.ri21 ..
  | i25 => exact Laws.EncodedFields.i25 ..
  | unknown => exact Laws.EncodedFields.unknown ..
  | add => exact Laws.EncodedFields.add ..
  | lw => exact Laws.EncodedFields.lw ..
  | j => exact Laws.EncodedFields.j ..
  | slliw => exact Laws.EncodedFields.slliw ..
  | sentinel => exact Laws.EncodedFields.sentinel ..

/-- The word of an `I25` record holds at bit 9 what it was given for it (30_encoding R75). -/
theorem bit9Of_word_i25 (opcode : BitVec 6) (imm : BitVec 25) (bit9 : BitVec 1) :
    bit9Of ((Record.i25 opcode imm).word bit9) = bit9 := by
  simp (disch := omega) only [bit9Of, Record.word, slice_or, slice_place, slice_place_below, slice_place_above,
    BitVec.or_zero, BitVec.zero_or]

/-- Bit 9 of an encoded `I25` word is the one the instruction keeps. -/
theorem bit9Of_encode {i : Instr} (h : i.shape = .i25) : bit9Of (encode i) = i.ignored := by
  cases i with
  | i25 | j => exact bit9Of_word_i25 ..
  | _ => cases h

@[simp] theorem RowRef.isAdd_mk (idx : Nat) (q : Quirks) : RowRef.isAdd ⟨idx, txt "add", q⟩ = q.fitsAdd := by
  simp [RowRef.isAdd]

@[simp] theorem RowRef.isLw_mk (idx : Nat) (q : Quirks) : RowRef.isLw ⟨idx, txt "lw", q⟩ = q.fitsLw := by
  simp [RowRef.isLw]

@[simp] theorem RowRef.isJ_mk (idx : Nat) (q : Quirks) : RowRef.isJ ⟨idx, txt "j", q⟩ = q.fitsJ := by
  simp [RowRef.isJ]

@[simp] theorem RowRef.isSlliw_mk (idx : Nat) (q : Quirks) :
    RowRef.isSlliw ⟨idx, txt "slliw", q⟩ = q.fitsSlliw := by
  simp [RowRef.isSlliw]

/-- What a table must say of an instruction's word to hold the instruction: MATCH gives its row, and the sentinel row for
the constructor `sentinel` alone. -/
theorem placedIn_iff (t : List Row) (i : Instr) : i.placedIn t = true ↔
    ∃ idx row, matchWord t (encode i) = some (idx, row) ∧ row.ref idx = i.ref ∧ row.shape = i.shape ∧
      (row = Row.sentinel ↔ ∃ k raw, i = .sentinel k raw) := by
  unfold Instr.placedIn
  cases matchWord t (encode i) with
  | none => simp
  | some p =>
    obtain ⟨idx, row⟩ := p
    cases i <;> simp [and_assoc]

/-- The instruction that an instruction's own row makes of its encoded word is the instruction itself: the record is its
record, well-formedness settles whether the row is a shown one, and bit 9 of an `I25` word is read back. -/
theorem ofRow_encode {i : Instr} (hwf : i.wf = true) {idx : Nat} {row : Row} (href : row.ref idx = i.ref)
    (hsh : row.shape = i.shape) (hsent : row = Row.sentinel ↔ ∃ k raw, i = .sentinel k raw) :
    Instr.ofRow idx row (encode i) = i := by
  have hidx : idx = i.ref.idx := congrArg RowRef.idx href
  have hquirks : row.quirks = i.ref.quirks := congrArg RowRef.quirks href
  unfold Instr.ofRow
  rw [hsh, decodeFields_encode, href, hidx, hquirks]
  cases i with
  | rrr | rri6 | rri12 =>
    obtain ⟨-, hgeneric⟩ := Bool.and_eq_true_iff.1 hwf
    exact if_neg (by simpa [Instr.ref] using hgeneric)
  | i25 =>
    obtain ⟨-, hgeneric⟩ := Bool.and_eq_true_iff.1 hwf
    rw [bit9Of_encode rfl]
    exact if_neg (by simpa [Instr.ref] using hgeneric)
  | add => exact if_pos ((RowRef.isAdd_mk ..).trans hwf)
  | lw => exact if_pos ((RowRef.isLw_mk ..).trans hwf)
  | j =>
    rw [bit9Of_encode rfl]
    exact if_pos ((RowRef.isJ_mk ..).trans hwf)
  | slliw => exact if_pos ((RowRef.isSlliw_mk ..).trans hwf)
  | unknown => exact if_neg fun h => by simpa using hsent.1 h
  | sentinel k raw => exact if_pos (hsent.2 ⟨k, raw, rfl⟩)
  | _ => rfl

end Sys2Proof
end

section
/-!
PROOFS. The statements on the matcher (spec/40_matcher.md): the first row wins, the laws of MATCH, shadowed rows, and
decoding what was encoded.
-/
namespace Sys2Proof.Machine

/-- Settles O36: the bytes give the word back, MATCH gives the instruction's row, and its row reads the word as the
instruction. -/
theorem decodeOfEncode : Obligations.DecodeOfEncode := by
  intro t i rest hwf hplaced
  obtain ⟨idx, row, hm, href, hsh, hsent⟩ := (placedIn_iff t i).1 hplaced
  rw [← assembleWord_byteOf (encode i)] at hm
  have hd := decode_of_match hm rest
  rwa [assembleWord_byteOf, ofRow_encode hwf href hsh hsent] at hd

/-- Settles O28, by the scan read as the least row that recognises the word. -/
theorem matchIsFirstRow : Obligations.MatchIsFirstRow := by
  intro t w i r
  simp only [matchWord_eq_some_iff, Bool.eq_false_iff, ne_eq, Row.recognises_iff]

/-- Settles O29: (a) and (b) are MATCH as the first row, (c) and (d) the place of the sentinel in an admitted table. -/
theorem matchLawsOnAdmittedTable : Obligations.MatchLawsOnAdmittedTable := by
  intro c w ht
  obtain ⟨i, r, hm⟩ := matchWord_of_tableAdmitted ht w
  obtain ⟨-, hrow, hfirst⟩ := (matchIsFirstRow c.itable w i r).1 hm
  exact ⟨i, r, hm, hrow, hfirst, idx_eq_nRows_iff_of_match ht hm⟩

/-- Settles O30: a word MATCH gave to the later row would have been recognised by the earlier one. -/
theorem shadowedRowUnreachable : Obligations.ShadowedRowUnreachable := by
  intro t k i general specific hki hk hi
  refine ⟨fun hshadows w => Row.recognises_of_shadows hshadows, fun hall w r hm => ?_⟩
  obtain ⟨hir, hr, hfirst⟩ := first_of_matchWord hm
  obtain rfl : specific = r := Option.some.inj (hi.symm.trans hir)
  have hgeneral := hall w hr
  simp [hfirst k general hki hk] at hgeneral

end Sys2Proof.Machine
end

section
/-!
SUPPORT. DECODE read in numbers: a field as the value of its bit range, a split immediate as the sum of its parts
(spec/30_encoding.md R82), and bit 9, which no field of shape `I25` sees (spec/41_field_decoder.md R138).
-/
namespace Sys2Proof.Machine

/-! ## Bit ranges -/

/-- The value `w[hi:lo]` is the slice from bit `lo` on. -/
theorem toNat_slice_eq_bits (w : Word) (hi lo k : Nat) (h : hi - lo + 1 = k) :
    (w.extractLsb' lo k).toNat = bits w hi lo := by
  rw [BitVec.extractLsb'_toNat, Nat.shiftRight_eq_div_pow, bits, h]

/-- A field at bits `hi` to `lo` is the slice from bit `lo` on. -/
theorem ofNat_bits (w : Word) (hi lo k : Nat) (h : hi - lo + 1 = k) :
    BitVec.ofNat k (bits w hi lo) = w.extractLsb' lo k := by
  rw [← toNat_slice_eq_bits w hi lo k h, BitVec.ofNat_toNat, BitVec.setWidth_eq]

/-- A split immediate is the number with the high part above the low sixteen bits (30_encoding R82). -/
theorem splitImm_eq_ofNat {k : Nat} (n : Nat) (high : BitVec k) (low : BitVec 16) :
    splitImm n high low = BitVec.ofNat n (high.toNat * 2 ^ 16 + low.toNat) := by
  have hsum : high.toNat <<< 16 ||| low.toNat = high.toNat * 2 ^ 16 + low.toNat := by
    rw [← Nat.shiftLeft_add_eq_or_of_lt low.isLt, Nat.shiftLeft_eq]
  rw [splitImm, ← hsum]
  apply BitVec.eq_of_toNat_eq
  simp only [BitVec.toNat_or, BitVec.toNat_shiftLeft, BitVec.toNat_setWidth, BitVec.toNat_ofNat, Nat.or_mod_two_pow,
    Nat.shiftLeft_eq, Nat.mod_mul_mod]

/-- The split immediates of DECODE, in bit ranges of the word (41_field_decoder R134, R135). -/
theorem splitImm_slices_eq_bits (w : Word) (n hi k : Nat) (h : hi + 1 = k) :
    splitImm n (w.extractLsb' 0 k) (w.extractLsb' 10 16) = BitVec.ofNat n (bits w hi 0 * 2 ^ 16 + bits w 25 10) := by
  rw [splitImm_eq_ofNat, toNat_slice_eq_bits w hi 0 k h, toNat_slice_eq_bits w 25 10 16 rfl]

/-! ## Bit 9 of shape `I25` -/

/-- The mask of R138 clears bit 9 and keeps every other bit. -/
theorem getLsbD_clear_bit9 (w : Word) (i : Nat) :
    (w &&& ~~~(0x200#32)).getLsbD i = (w.getLsbD i && i != 9) := by
  by_cases hi : i < 32
  · have hbit : (0x200#32).getLsbD i = decide (9 = i) := BitVec.getLsbD_twoPow 9 i
    rw [BitVec.getLsbD_and, BitVec.getLsbD_not, hbit]
    by_cases h9 : i = 9
    · simp [h9]
    · simp [hi, h9, Ne.symm h9]
  · rw [BitVec.getLsbD_of_ge w i (by omega), BitVec.getLsbD_of_ge _ i (by omega), Bool.false_and]

/-- Bits that are flipped and then cleared could as well have been cleared at once. -/
theorem clear_flipped_bits (w m : Word) : (w ^^^ m) &&& ~~~m = w &&& ~~~m := by
  ext i hi
  cases hm : m[i] <;> simp [hm]

/-- A slice that leaves bit 9 out does not see it cleared. -/
theorem slice_clear_bit9 (w : Word) (s l : Nat) (h : s + l ≤ 9 ∨ 9 < s) :
    (w &&& ~~~(0x200#32)).extractLsb' s l = w.extractLsb' s l := by
  apply BitVec.eq_of_getLsbD_eq
  intro i hi
  simp only [BitVec.getLsbD_extractLsb', getLsbD_clear_bit9, bne_iff_ne.2 (show s + i ≠ 9 by omega), Bool.and_true]

theorem bit9Of_clear_bit9 (w : Word) : bit9Of (w &&& ~~~(0x200#32)) = 0 := by
  apply BitVec.eq_of_getLsbD_eq
  intro i hi
  obtain rfl : i = 0 := by omega
  simp only [bit9Of, BitVec.getLsbD_extractLsb', getLsbD_clear_bit9]
  simp

/-- DECODE of shape `I25` reads no field from bit 9 (30_encoding R75; 41_field_decoder R135). -/
theorem decodeFields_i25_clear_bit9 (w : Word) : decodeFields (w &&& ~~~(0x200#32)) .i25 = decodeFields w .i25 := by
  simp (disch := omega) only [decodeFields, opcodeOf, slice_clear_bit9]

/-- The word of an `I25` record is the word decoded, bit 9 cleared (41_field_decoder R138). -/
theorem word_decodeFields_i25 (w : Word) : (decodeFields w .i25).word 0 = w &&& ~~~(0x200#32) := by
  rw [← decodeFields_i25_clear_bit9]
  exact word_decodeFields _ _ _ fun _ => (bit9Of_clear_bit9 w).symm

/-- Two words have one record of shape `I25` exactly when they differ at most in bit 9 (41_field_decoder R138). -/
theorem decodeFields_i25_eq_iff (w w' : Word) :
    decodeFields w .i25 = decodeFields w' .i25 ↔ w &&& ~~~(0x200#32) = w' &&& ~~~(0x200#32) := by
  constructor
  · intro h
    rw [← word_decodeFields_i25, h, word_decodeFields_i25]
  · intro h
    rw [← decodeFields_i25_clear_bit9, h, decodeFields_i25_clear_bit9]

end Sys2Proof.Machine
end

section
/-!
PROOFS. The statements on the Field Decoder (spec/41_field_decoder.md): the fields of every shape, and the word rebuilt
from its record.
-/
namespace Sys2Proof.Machine

/-- Settles O34, by the fields of a record put back at their places; of shape `I25`, by the word with bit 9 cleared. -/
theorem recordRebuildsWord : Obligations.RecordRebuildsWord := by
  have hword (w : Word) (sh : Shape) (bit9 : BitVec 1) (hsh : sh ≠ .i25) : (decodeFields w sh).word bit9 = w :=
    word_decodeFields w sh bit9 fun h => absurd h hsh
  refine fun w bit9 => ⟨fun sh => ⟨decodeFields_shape w sh, hword w sh bit9⟩, word_decodeFields_i25 w,
    fun w' sh hsh h => ?_, fun w' => (decodeFields_i25_eq_iff w w').symm⟩
  rw [← hword w sh bit9 hsh, h, hword w' sh bit9 hsh]

/-- Settles O32: each bit range is the slice DECODE takes, and the rules' examples evaluate. -/
theorem decodeContiguousFields : Obligations.DecodeContiguousFields := by
  refine ⟨fun w => ?_, by decide⟩
  simp (disch := rfl) only [ofNat_bits]
  exact ⟨rfl, rfl, rfl, rfl, rfl, rfl, rfl, rfl, rfl, rfl⟩

/-- Settles O33: the high part of a split immediate stands above its low sixteen bits, and flipping bit 9 of a word is
not seen once it is cleared. -/
theorem decodeSplitFields : Obligations.DecodeSplitFields := by
  refine ⟨fun w => ⟨?_, ?_, (decodeFields_i25_eq_iff _ w).2 (clear_flipped_bits w 0x200), rfl⟩, by decide⟩
  · rw [decodeFields, splitImm_slices_eq_bits w 21 4 5 rfl, ofNat_bits w 31 26 6 rfl, ofNat_bits w 9 5 5 rfl]
    rfl
  · rw [decodeFields, splitImm_slices_eq_bits w 25 8 9 rfl, ofNat_bits w 31 26 6 rfl]
    rfl

end Sys2Proof.Machine
end

section
/-!
SUPPORT. The Renderer piece by piece (spec/42_renderer.md): the report of a word as what the output ports show, lines as
texts, register names by the tables (R140), sign extension determined by its range (R145, R146), and what RENDER reads
of the constants, of the mnemonic (R165) and of the quirks (R150).
-/
namespace Sys2Proof

/-- What a flag is after one flag was put to a value. -/
theorem Quirks.has_put (q : Quirks) (f g : QuirkFlag) (v : Bool) :
    (q.put f v).has g = if g = f then v else q.has g := by
  cases f <;> cases g <;> rfl

end Sys2Proof

namespace Sys2Proof.Machine

/-! ## Reports and lines -/

/-- A report puts the row, the record's shape and the truncated text on the output ports. -/
theorem next_report_eq_showing {full full' : Text} (h : full = full') (s : State) (r : RowRef) (m : Option Text)
    (rec : Record) :
    (Host.Outcome.next (s.report r m rec full) : Host.Outcome State Fault Refusal) =
      .next (s.showing r.idx rec.shape r.quirks m rec full') := by
  subst h
  rfl

theorem line_one (m a : Text) : line m [a] = m ++ txt " " ++ a := rfl

theorem line_two (m a b : Text) : line m [a, b] = m ++ txt " " ++ a ++ txt ", " ++ b := by
  simp only [line, commaJoin, List.append_assoc]

theorem line_three (m a b c : Text) :
    line m [a, b, c] = m ++ txt " " ++ a ++ txt ", " ++ b ++ txt ", " ++ c := by
  simp only [line, commaJoin, List.append_assoc]

theorem line_four (m a b c d : Text) :
    line m [a, b, c, d] = m ++ txt " " ++ a ++ txt ", " ++ b ++ txt ", " ++ c ++ txt ", " ++ d := by
  simp only [line, commaJoin, List.append_assoc]

/-- The two forms of a shape that honours `LDST` (42_renderer R156, R158). -/
theorem line_memory_or_three (ldst : Bool) (m d i j : Text) :
    (if ldst then line m [d, memOperand i j] else line m [d, j, i]) =
      if ldst then m ++ txt " " ++ d ++ txt ", " ++ i ++ txt "(" ++ j ++ txt ")"
      else m ++ txt " " ++ d ++ txt ", " ++ j ++ txt ", " ++ i := by
  simp only [line_two, line_three, memOperand, List.append_assoc]

/-! ## Register names -/

/-- A register name is the entry of its index in the table that the flag selects (42_renderer R140). -/
theorem regname_eq_getD (c : Constants) (i : RegIdx) (fp : Bool) :
    regname c i fp = (if fp then c.fprName else c.gprName).toList.getD i.toNat [] := by
  have hi : i.toNat < 32 := i.isLt
  cases fp <;> simp [regname, List.getD, hi]

/-- Admitted name tables begin with the names the source states (10_state R23). -/
theorem regname_pinned {c : Constants} (h : c.namesAdmitted = true) {i : RegIdx} (hi : i.toNat < 5) :
    regname c i false = Config.pinnedNames.getD i.toNat [] := by
  simp only [Constants.namesAdmitted, Bool.and_eq_true, beq_iff_eq] at h
  obtain ⟨-, hpinned⟩ := h
  rw [regname_eq_getD, ← hpinned]
  simp [List.getD, List.getElem?_take_of_lt hi]

/-! ## Sign extension of an immediate -/

/-- Sign extension gives the one number of the signed range that is congruent to the value (00_scope R12). -/
theorem sextN_eq_of_emod {n : Nat} {v x : Int} (hn : 1 ≤ n) (hlo : -(2 : Int) ^ (n - 1) ≤ x)
    (hhi : x ≤ 2 ^ (n - 1) - 1) (h : x % 2 ^ n = v % 2 ^ n) : sextN n v = x := by
  obtain ⟨hlo', hhi'⟩ : -(2 : Int) ^ (n - 1) ≤ sextN n v ∧ sextN n v ≤ 2 ^ (n - 1) - 1 :=
    signedN_range hn (zextN_lt n v)
  have hp : (2 : Int) ^ n = 2 ^ (n - 1) + 2 ^ (n - 1) := by rw [← two_mul, ← pow_succ', Nat.sub_add_cancel hn]
  have hdvd : (2 : Int) ^ n ∣ sextN n v - x := Int.ModEq.dvd (h.trans (sextN_emod n v).symm)
  have hlt : |sextN n v - x| < 2 ^ n := abs_lt.2 ⟨by omega, by omega⟩
  exact Int.sub_eq_zero.1 (Int.eq_zero_of_abs_lt_dvd hdvd hlt)

/-- For a number below `2^N` sign extension is the source's conversion of the unsigned field (42_renderer R146). -/
theorem sextN_natCast {n u : Nat} (hu : u < 2 ^ n) : sextN n u = signedN n u := by
  have hz : (zextN n u : Int) = u :=
    (zextN_eq_emod n u).trans (Int.emod_eq_of_lt (Int.natCast_nonneg u) (by exact_mod_cast hu))
  rw [sextN, Int.ofNat_inj.1 hz]

/-- Scaling by 4 commutes with sign extension, two bits wider (42_renderer R145). -/
theorem sextN_four_mul {n : Nat} (hn : 1 ≤ n) (v : Int) : sextN (n + 2) (4 * v) = 4 * sextN n v := by
  obtain ⟨hlo, hhi⟩ : -(2 : Int) ^ (n - 1) ≤ sextN n v ∧ sextN n v ≤ 2 ^ (n - 1) - 1 :=
    signedN_range hn (zextN_lt n v)
  have hhalf : (2 : Int) ^ (n + 2 - 1) = 4 * 2 ^ (n - 1) := by
    rw [show n + 2 - 1 = n - 1 + 2 by omega, pow_add, mul_comm]
    rfl
  have hfull : (2 : Int) ^ (n + 2) = 4 * 2 ^ n := by
    rw [pow_add, mul_comm]
    rfl
  refine sextN_eq_of_emod (by omega) (by omega) (by omega) ?_
  rw [hfull, Int.mul_emod_mul_of_pos _ _ (by decide), Int.mul_emod_mul_of_pos _ _ (by decide), sextN_emod]

/-- An immediate that `MINUS32` has not touched is a number of its width (42_renderer R145). -/
theorem immValue_of_not_minus32 {n raw : Nat} {q : Quirks} (hraw : raw < 2 ^ n) (hq : q.minus32 = false) :
    ∃ u : Nat, immValue q raw = u ∧ u < 2 ^ immWidth q n := by
  cases h2 : q.shl2 with
  | false => exact ⟨raw, by simp [immValue, hq, h2], by simpa [immWidth, h2] using hraw⟩
  | true =>
    refine ⟨raw * 4, by simp [immValue, hq, h2], ?_⟩
    rw [immWidth, if_pos h2, pow_add]
    omega

/-- An immediate that is negative is so by `MINUS32`, at least -32 before scaling, and lies in the signed range of a
width of at least six bits, two bits more when scaled (42_renderer R146). -/
theorem immValue_range_of_neg {n raw : Nat} {q : Quirks} (hn : 6 ≤ n) (hraw : raw < 2 ^ n)
    (hneg : immValue q raw < 0) : 1 ≤ immWidth q n ∧ -(2 : Int) ^ (immWidth q n - 1) ≤ immValue q raw := by
  cases hm : q.minus32 with
  | false =>
    obtain ⟨u, hu, -⟩ := immValue_of_not_minus32 hraw hm
    omega
  | true =>
    cases h2 : q.shl2 with
    | false =>
      have hv : immValue q raw = raw - 32 := by simp [immValue, hm, h2]
      have hw : immWidth q n = n := by simp [immWidth, h2]
      have hp : (2 : Int) ^ 5 ≤ 2 ^ (n - 1) := pow_le_pow_right₀ (by decide) (by omega)
      rw [hw, hv]
      omega
    | true =>
      have hv : immValue q raw = (raw - 32) * 4 := by simp [immValue, hm, h2]
      have hw : immWidth q n = n + 2 := by simp [immWidth, h2]
      have hp : (2 : Int) ^ 7 ≤ 2 ^ (n + 2 - 1) := pow_le_pow_right₀ (by decide) (by omega)
      rw [hw, hv]
      omega

/-! ## What RENDER reads -/

/-- Of the constants RENDER reads the two name tables (42_renderer R140). -/
theorem render_congr_names {c c' : Constants} (hg : c.gprName = c'.gprName) (hf : c.fprName = c'.fprName) (row : Row)
    (rec : Record) (pc : Addr) : render c row rec pc = render c' row rec pc := by
  obtain ⟨t, gpr, fpr, cap⟩ := c
  obtain rfl : gpr = c'.gprName := hg
  obtain rfl : fpr = c'.fprName := hf
  cases rec <;> rfl

/-- The mnemonic stands before the operands, which are the same for every mnemonic (42_renderer R165). -/
theorem render_eq_line (c : Constants) (row : Row) {rec : Record} (h : rec.shape ≠ .unknown) (pc : Addr) :
    ∃ operands, ∀ m, render c { row with mnemonic := m } rec pc = line m operands := by
  cases rec with
  | unknown => exact absurd rfl h
  | rri12 | rri14 =>
    simp only [render, renderRri12, renderRri14]
    cases row.quirks.ldst <;> exact ⟨_, fun _ => rfl⟩
  | _ =>
    simp only [render]
    exact ⟨_, fun _ => rfl⟩

/-- An immediate reads `HEX`, `MINUS32`, `SHL2`, and `JUMP` where it may be a target (42_renderer R143). -/
theorem imm_congr_quirks {q q' : Quirks} {jumpOk : Bool} (hh : q.hex = q'.hex) (hm : q.minus32 = q'.minus32)
    (h2 : q.shl2 = q'.shl2) (hj : jumpOk = true → q.jump = q'.jump) (raw n : Nat) (pc : Addr)
    (alwaysSigned : Bool) : imm raw n q pc alwaysSigned jumpOk = imm raw n q' pc alwaysSigned jumpOk := by
  have htarget : (q.jump && jumpOk) = (q'.jump && jumpOk) := by
    cases jumpOk with
    | false => simp
    | true => rw [hj rfl]
  simp only [imm, immValue, immWidth, hh, hm, h2, htarget]

/-- RENDER reads no flag but those its shape honours: bitsets that agree on these have one text (42_renderer R150). -/
theorem render_congr_quirks {q q' : Quirks} {rec : Record}
    (h : ∀ f, rec.shape.honours f = true → q.has f = q'.has f) (c : Constants) (row : Row) (pc : Addr) :
    render c { row with quirks := q } rec pc = render c { row with quirks := q' } rec pc := by
  have himm (jumpOk : Bool) (hhex : rec.shape.honours .hex = true) (hm : rec.shape.honours .minus32 = true)
      (h2 : rec.shape.honours .shl2 = true) (hj : jumpOk = true → rec.shape.honours .jump = true) :=
    imm_congr_quirks (h .hex hhex) (h .minus32 hm) (h .shl2 h2) fun hok => h .jump (hj hok)
  cases rec with
  | unknown => rfl
  | rr =>
    have hd : q.fprD = q'.fprD := h .fprD rfl
    have hj : q.fprJ = q'.fprJ := h .fprJ rfl
    simp only [render, renderRr, operandD, operandJ, hd, hj]
  | rrr | ffff =>
    have hd : q.fprD = q'.fprD := h .fprD rfl
    have hj : q.fprJ = q'.fprJ := h .fprJ rfl
    have hk : q.fprK = q'.fprK := h .fprK rfl
    simp only [render, renderRrr, renderFfff, operandD, operandJ, operandK, hd, hj, hk]
  | rri6 | rri8 | rri6i6 =>
    have hd : q.fprD = q'.fprD := h .fprD rfl
    have hj : q.fprJ = q'.fprJ := h .fprJ rfl
    simp only [render, renderRri6, renderRri8, renderRri6i6, operandD, operandJ, hd, hj,
      himm false rfl rfl rfl nofun]
  | rri12 | rri14 =>
    have hd : q.fprD = q'.fprD := h .fprD rfl
    have hj : q.fprJ = q'.fprJ := h .fprJ rfl
    have hl : q.ldst = q'.ldst := h .ldst rfl
    simp only [render, renderRri12, renderRri14, operandD, operandJ, hd, hj, hl, himm false rfl rfl rfl nofun]
  | rri16 =>
    have hd : q.fprD = q'.fprD := h .fprD rfl
    have hj : q.fprJ = q'.fprJ := h .fprJ rfl
    simp only [render, renderRri16, operandD, operandJ, hd, hj, himm true rfl rfl rfl fun _ => rfl]
  | aui20 =>
    have hd : q.fprD = q'.fprD := h .fprD rfl
    simp only [render, renderAui20, operandD, hd, himm false rfl rfl rfl nofun]
  | ri21 =>
    have hj : q.fprJ = q'.fprJ := h .fprJ rfl
    simp only [render, renderRi21, operandJ, hj, himm true rfl rfl rfl fun _ => rfl]
  | i25 => simp only [render, renderI25, himm true rfl rfl rfl fun _ => rfl]

/-- A flag that the shape lacks is ignored (42_renderer R150). -/
theorem render_put_of_not_honours {rec : Record} {f : QuirkFlag} (h : rec.shape.honours f = false) (c : Constants)
    (row : Row) (pc : Addr) (v : Bool) :
    render c { row with quirks := row.quirks.put f v } rec pc = render c row rec pc := by
  refine render_congr_quirks (fun g hg => ?_) c row pc
  have hgf : g ≠ f := by
    rintro rfl
    simp [h] at hg
  rw [Quirks.has_put, if_neg hgf]

/-! ## A text that shows each flag -/

/-- A row of a shape with no quirk. -/
def plainRow (sh : Shape) : Row :=
  { mnemonic := txt "op", shape := sh, matchBits := 0, mask := 0, quirks := Quirks.none }

/-- The text of the word `0x420` under a row with one flag put to a value. The word has bits 5 and 10 set, so that the
first immediate is positive in every shape that has one. -/
def flagText (sh : Shape) (f : QuirkFlag) (v : Bool) : Text :=
  render Config.constants { plainRow sh with quirks := (plainRow sh).quirks.put f v } (decodeFields 0x420 sh) 0

/-- Of every flag that a shape honours this text shows the value (42_renderer R150). -/
theorem flagText_ne : ∀ sh ∈ Shape.all, ∀ f ∈ QuirkFlag.all, sh.honours f = true →
    flagText sh f true ≠ flagText sh f false := by
  decide

end Sys2Proof.Machine
end

section
/-!
SUPPORT. One step under other constants: a larger capacity (spec/42_renderer.md R170; spec/60_exceptions.md R193), and
another mnemonic in the matched row (spec/42_renderer.md R165).
-/
namespace Sys2Proof

/-! ## A row with another mnemonic -/

/-- An admitted row stays admitted under any mnemonic a row may hold (00_scope R9). -/
theorem Row.admitted_with_mnemonic {r : Row} (h : r.admitted = true) {m : Text} (hm : mnemonicOk m = true) :
    ({ r with mnemonic := m } : Row).admitted = true := by
  simp only [Row.admitted, Row.maskOk, Bool.and_eq_true] at h ⊢
  exact ⟨h.1, hm⟩

/-- A table stays admitted when an admitted row takes the place of a row before the sentinel (00_scope R9). -/
theorem tableAdmitted_set {t : List Row} (h : tableAdmitted t = true) {idx : Nat} (hlt : idx < t.length - 1) {r : Row}
    (hr : r.admitted = true) : tableAdmitted (t.set idx r) = true := by
  obtain ⟨rows, rfl, hrows⟩ := (tableAdmitted_iff t).1 h
  have hlen : idx < rows.length := by simpa using hlt
  refine (tableAdmitted_iff _).2 ⟨rows.set idx r, List.set_append_left _ _ hlen, fun x hx => ?_⟩
  rcases List.mem_or_eq_of_mem_set hx with hmem | rfl
  · exact hrows x hmem
  · exact hr

/-- MATCH gives a row that stands in the place of the matched one and recognises the word too. -/
theorem matchWord_set {t : List Row} {w : Word} {idx : Nat} {row r : Row} (h : matchWord t w = some (idx, row))
    (hr : r.recognises w = true) : matchWord (t.set idx r) w = some (idx, r) := by
  obtain ⟨hidx, -, hfirst⟩ := first_of_matchWord h
  obtain ⟨hlt, -⟩ := List.getElem?_eq_some_iff.1 hidx
  refine matchWord_eq_some_iff.2 ⟨List.getElem?_set_self hlt, hr, fun k r' hk hr' => hfirst k r' hk ?_⟩
  rwa [List.getElem?_set_ne (Nat.ne_of_gt hk)] at hr'

/-- The constants with another mnemonic in one row. -/
def Constants.withMnemonic (c : Constants) (idx : Nat) (row : Row) (m : Text) : Constants :=
  { c with itable := c.itable.set idx { row with mnemonic := m } }

end Sys2Proof

namespace Sys2Proof.Machine

/-! ## A larger capacity -/

/-- `text_len` counts the characters shown (10_state R29). -/
theorem textLen_eq_length_of_step {s t : State} (h : step s = .next t) : t.out.textLen = t.out.text.length := by
  rcases (step_inv h).ports with hshort | hword
  · rw [hshort.textLen, hshort.text, List.length_nil]
  · exact hword.textLen

/-- What a capacity leaves of some outputs: the text cut to it, and its length (42_renderer R170). -/
def Outputs.cut (o : Outputs) (cap : Nat) : Outputs :=
  { o with text := o.text.take cap, textLen := min cap o.textLen }

/-- A text that fits is not cut. -/
theorem Outputs.cut_of_le {o : Outputs} {cap : Nat} (hlen : o.textLen = o.text.length) (h : o.textLen ≤ cap) :
    o.cut cap = o := by
  rw [Outputs.cut, List.take_of_length_le (hlen ▸ h), Nat.min_eq_right h]

/-- What a smaller capacity shows of a word is cut from what a larger one shows (42_renderer R170). -/
theorem Outputs.decoded_eq_cut {cap larger : Nat} (h : cap ≤ larger) (r : RowRef) (m : Option Text) (rec : Record)
    (full : Text) : Outputs.decoded cap r m rec full = (Outputs.decoded larger r m rec full).cut cap := by
  simp only [Outputs.cut, Outputs.decoded, List.take_take, ← Nat.min_assoc, Nat.min_eq_left h]

/-- A step with a larger capacity shows what the step shows, uncut. -/
theorem step_with_larger_cap {s t : State} {larger : Nat} (h : step s = .next t) (hle : s.consts.cap ≤ larger) :
    ∃ t', step { s with consts := { s.consts with cap := larger } } = .next t' ∧ t.out = t'.out.cut s.consts.cap := by
  obtain ⟨ht, hn, hcap⟩ := (Constants.admitted_iff _).1 (step_cases h).1
  have ha : ({ s.consts with cap := larger } : Constants).admitted = true :=
    (Constants.admitted_iff _).2 ⟨ht, hn, hcap.trans hle⟩
  rcases step_reports h with ⟨hl, rfl⟩ | ⟨hl, idx, row, hm, rfl⟩
  · exact ⟨_, step_of_short ha hl, by simp [Outputs.cut, Outputs.insufficient]⟩
  · refine ⟨_, step_of_match (s := { s with consts := { s.consts with cap := larger } }) ha hl hm, ?_⟩
    simp only [State.report_out]
    rw [Outputs.decoded_eq_cut hle, render_congr_names (c' := { s.consts with cap := larger }) rfl rfl]
    rfl

/-! ## Another mnemonic -/

/-- With another mnemonic in the matched row, one before the sentinel, a step reports the same row number, quirks and
record, and RENDER's text of the row so changed (42_renderer R165). -/
theorem step_with_mnemonic {s : State} {idx : Nat} {row : Row} {m : Text} (ha : s.consts.admitted = true)
    (hl : 4 ≤ s.inp.inLen) (hm : matchWord s.consts.itable s.inp.word = some (idx, row)) (hlt : idx < s.consts.nRows)
    (hok : mnemonicOk m = true) :
    step { s with consts := s.consts.withMnemonic idx row m } =
      .next (State.report { s with consts := s.consts.withMnemonic idx row m } ⟨idx, m, row.quirks⟩ (some m)
        (decodeFields s.inp.word row.shape)
        (render s.consts { row with mnemonic := m } (decodeFields s.inp.word row.shape) s.inp.pc)) := by
  obtain ⟨ht, hn, hcap⟩ := (Constants.admitted_iff _).1 ha
  obtain ⟨-, hrow⟩ | ⟨rfl, -⟩ := matchWord_row_cases ht hm
  · have hr := Row.admitted_with_mnemonic hrow hok
    have ha' : (s.consts.withMnemonic idx row m).admitted = true :=
      (Constants.admitted_iff _).2 ⟨tableAdmitted_set ht hlt hr, hn, hcap⟩
    obtain ⟨-, hrec, -⟩ := first_of_matchWord hm
    have hm' := matchWord_set (r := { row with mnemonic := m }) hm hrec
    have hne : ({ row with mnemonic := m } : Row) ≠ Row.sentinel :=
      fun hs => ((Row.admitted_iff _).1 hr).1 (congrArg Row.shape hs)
    rw [step_of_match (s := { s with consts := s.consts.withMnemonic idx row m }) ha' hl hm', if_neg hne,
      render_congr_names (c' := s.consts) rfl rfl]
    rfl
  · exact absurd hlt (lt_irrefl _)

end Sys2Proof.Machine
end

section
/-!
PROOFS. The statements on the Renderer (spec/42_renderer.md): the templates of the shapes, the register names, the
immediate policy, the quirk flags, the mnemonic, truncation.
-/
namespace Sys2Proof.Machine

/-- Settles O22: the scaled value is four times the field, and scaling commutes with sign extension. -/
theorem scaledImmediateSignExtends : Obligations.ScaledImmediateSignExtends := by
  intro n raw q hn _ hm h2
  have hv : immValue q raw = 4 * (raw : Int) := by simp [immValue, hm, h2, mul_comm]
  have hw : immWidth q n = n + 2 := by simp [immWidth, h2]
  refine ⟨hw, hv, ?_, by omega⟩
  rw [hw, hv, sextN_four_mul hn]

/-- Settles O23: an unbiased value is a number of its width, and a value that became negative lies in the signed range
already. -/
theorem signExtensionAfterBias : Obligations.SignExtensionAfterBias := by
  intro n raw q hn hraw
  constructor
  · intro hm
    obtain ⟨u, hu, hlt⟩ := immValue_of_not_minus32 hraw hm
    rw [hu, sextN_natCast hlt, Int.toNat_natCast]
  · intro hneg
    obtain ⟨hw, hlo⟩ := immValue_range_of_neg hn hraw hneg
    have hpos : (0 : Int) < 2 ^ (immWidth q n - 1) := by positivity
    exact sextN_eq_of_emod hw hlo (by omega) rfl

/-- Settles O54: the outputs are those of the larger capacity, cut. -/
theorem truncationOnlyCutsText : Obligations.TruncationOnlyCutsText := by
  intro s t larger h hle
  obtain ⟨t', hs, hcut⟩ := step_with_larger_cap h hle
  exact ⟨t', hs, hcut, fun hfits => hcut.trans (Outputs.cut_of_le (textLen_eq_length_of_step hs) hfits)⟩

/-- Settles O55: the text of a row before the sentinel is a line of its mnemonic, with operands that do not depend on
it; the row recognises the same words under another mnemonic. -/
theorem mnemonicPrintedVerbatim : Obligations.MnemonicPrintedVerbatim := by
  intro s t idx row h hidx hrow hlt
  have ha := (step_cases h).1
  obtain ⟨ht, -, -⟩ := (Constants.admitted_iff _).1 ha
  rcases step_reports h with ⟨-, rfl⟩ | ⟨hl, i, r, hm, rfl⟩
  · cases hidx
  obtain rfl : i = idx := Option.some.inj hidx
  obtain rfl : row = r := Option.some.inj (hrow.symm.trans (getElem?_of_match hm))
  obtain ⟨-, hlast⟩ := idx_eq_nRows_iff_of_match ht hm
  have hshape : row.shape ≠ .unknown := fun hu => hlt.ne (hlast.2 hu)
  have hne : row ≠ Row.sentinel := fun hs => hshape (congrArg Row.shape hs)
  obtain ⟨operands, hline⟩ :=
    render_eq_line s.consts row (rec := decodeFields s.inp.word row.shape) (by simpa using hshape) s.inp.pc
  refine ⟨commaJoin operands, congrArg (List.take _) (hline row.mnemonic), if_neg hne, fun m hok =>
    ⟨_, step_with_mnemonic ha hl hm hlt hok, ?_⟩⟩
  rw [hline m]
  rfl

/-- Settles O56: the table evaluates; a flag the shape lacks is read by no template; of each honoured flag the text of
one word shows it. -/
theorem quirkFlagsActByShape : Obligations.QuirkFlagsActByShape := by
  obtain ⟨-, hshapes, -, hflags, -⟩ := portCodesInListingOrder
  exact ⟨rfl, fun c row _ pc _ v h => render_put_of_not_honours h c row pc v, fun sh f h =>
    ⟨Config.constants, plainRow sh, 0x420, 0, by decide, rfl, flagText_ne sh (hshapes sh) f (hflags f) h⟩⟩

/-- Settles O58, row by row: the quirks each rule settles leave one form of the generic template. -/
theorem shownRowsAgreeWithTheirShape : Obligations.ShownRowsAgreeWithTheirShape :=
  fun idx _ s =>
    ⟨fun hq o sel rk rj rd => exec_add_eq_rrr hq idx o sel rk rj rd s,
      fun hq o sel i rj rd => exec_lw_eq_rri12 hq idx o sel i rj rd s,
      fun hq o i b => exec_j_eq_i25 hq idx o i b s,
      fun hq o sel i rj rd => exec_slliw_eq_rri6 hq idx o sel i rj rd s⟩

/-- Settles O1: the meaning reports a line of two operands. -/
theorem rrShowsTwoRegisters : Obligations.RrShowsTwoRegisters :=
  fun row _ _ _ _ s => next_report_eq_showing (line_two ..) s row _ _

/-- Settles O2: the meaning reports a line of three operands. -/
theorem rrrShowsThreeRegisters : Obligations.RrrShowsThreeRegisters :=
  fun row _ _ _ _ _ s => next_report_eq_showing (line_three ..) s row _ _

/-- Settles O3: the meaning reports a line of four operands. -/
theorem ffffShowsFourRegisters : Obligations.FfffShowsFourRegisters :=
  fun row _ _ _ _ _ _ s => next_report_eq_showing (line_four ..) s row _ _

/-- Settles O4: the meaning reports a line of three operands. -/
theorem rri6ShowsImmediate : Obligations.Rri6ShowsImmediate :=
  fun row _ _ _ _ _ s => next_report_eq_showing (line_three ..) s row _ _

/-- Settles O5: the meaning reports a line of three operands. -/
theorem rri8ShowsImmediate : Obligations.Rri8ShowsImmediate :=
  fun row _ _ _ _ _ s => next_report_eq_showing (line_three ..) s row _ _

/-- Settles O6, by the two forms under `LDST`. -/
theorem rri12ShowsOperandOrMemory : Obligations.Rri12ShowsOperandOrMemory :=
  fun row _ _ _ _ _ s => next_report_eq_showing (line_memory_or_three ..) s row _ _

/-- Settles O7: the meaning reports a line of four operands. -/
theorem rri6i6ShowsBothImmediates : Obligations.Rri6i6ShowsBothImmediates :=
  fun row _ _ _ _ _ _ s => next_report_eq_showing (line_four ..) s row _ _

/-- Settles O8, by the two forms under `LDST`. -/
theorem rri14ShowsOperandOrMemory : Obligations.Rri14ShowsOperandOrMemory :=
  fun row _ _ _ _ _ s => next_report_eq_showing (line_memory_or_three ..) s row _ _

/-- Settles O9: the meaning reports a line of three operands. -/
theorem rri16ShowsImmediateOrTarget : Obligations.Rri16ShowsImmediateOrTarget :=
  fun row _ _ _ _ s => next_report_eq_showing (line_three ..) s row _ _

/-- Settles O10: the meaning reports a line of two operands. -/
theorem aui20ShowsImmediate : Obligations.Aui20ShowsImmediate :=
  fun row _ _ _ _ s => next_report_eq_showing (line_two ..) s row _ _

/-- Settles O11: the meaning reports a line of two operands. -/
theorem ri21ShowsImmediateOrTarget : Obligations.Ri21ShowsImmediateOrTarget :=
  fun row _ _ _ s => next_report_eq_showing (line_two ..) s row _ _

/-- Settles O12: the meaning does not look at bit 9. -/
theorem i25ShowsImmediateOrTarget : Obligations.I25ShowsImmediateOrTarget :=
  fun row _ _ _ s => next_report_eq_showing (line_one ..) s row _ _

/-- Settles O13: the text has no mnemonic and no operand. -/
theorem unknownShowsRawWord : Obligations.UnknownShowsRawWord :=
  fun row _ s => next_report_eq_showing rfl s row _ _

/-- Settles O19: the first five names of admitted tables are the pinned ones. -/
theorem registerNamesFromTables : Obligations.RegisterNamesFromTables := by
  refine ⟨fun c i => ⟨regname_eq_getD c i true, regname_eq_getD c i false⟩, fun c h => ?_⟩
  exact ⟨regname_pinned h (by decide), regname_pinned h (by decide), regname_pinned h (by decide),
    regname_pinned h (by decide), regname_pinned h (by decide)⟩

/-- Settles O20: the value and the width are those of the policy, whose tests come in the same order. -/
theorem immediatePolicy : Obligations.ImmediatePolicy := by
  intro raw n q pc alwaysSigned jumpOk v w hv hw
  have hvalue : immValue q raw = v := by
    rw [hv, immValue]
    cases q.minus32 <;> cases q.shl2 <;> simp
  have hwidth : immWidth q n = w := by
    rw [hw, immWidth]
    cases q.shl2 <;> rfl
  simp only [imm, hvalue, hwidth, Bool.and_eq_true]
  rfl

end Sys2Proof.Machine
end

section
/-!
SUPPORT. What the rows of spec/43_table_rows.md need beyond the templates: the sign extension and the pc-relative target
of a field as bit-vector operations, the rows of a table that R180 and R184 name, and the text of a report that fits the
capacity.
-/
namespace Sys2Proof

/-! ## Rows of a table -/

/-- What 43_table_rows R180 asks of a table: a row `add` that recognises the word `0x00108020`. -/
theorem hasAddRow_iff (t : List Row) : hasAddRow t = true ↔
    ∃ r ∈ t, r.mnemonic = txt "add" ∧ r.shape = .rrr ∧ r.quirks.fitsAdd = true ∧
      0x00108020#32 &&& r.mask = r.matchBits := by
  simp [hasAddRow, and_assoc]

/-- Row `N_ROWS` of an admitted table is the sentinel (30_encoding R87). -/
theorem getElem?_nRows {c : Constants} (h : tableAdmitted c.itable = true) :
    c.itable[c.nRows]? = some Row.sentinel := by
  obtain ⟨rows, hrows, -⟩ := (tableAdmitted_iff _).1 h
  simp [Constants.nRows, hrows]

end Sys2Proof

namespace Sys2Proof.Machine

/-! ## A field as a bit vector -/

/-- Sign extension of a field at its own width is its two's complement value (00_scope R12). -/
theorem sextN_toNat {n : Nat} (hn : 1 ≤ n) (x : BitVec n) : sextN n x.toNat = x.toInt := by
  have hcongr : x.toInt % 2 ^ n = (x.toNat : Int) % 2 ^ n := by
    rw [BitVec.toInt_eq_toNat_bmod]
    exact_mod_cast Int.bmod_emod
  exact sextN_eq_of_emod hn (BitVec.le_toInt x) (Int.le_sub_one_of_lt BitVec.toInt_lt) hcongr

/-- The target of a signed offset field is a sum of 64-bit vectors (42_renderer R148; 10_state R27). -/
theorem jumpTarget_sextN {n : Nat} (hn : 1 ≤ n) (pc : Addr) (x : BitVec n) :
    jumpTarget pc (sextN n x.toNat) = (pc + 4 * x.signExtend 64).toNat := by
  obtain ⟨hsum, -, -⟩ := jumpTargetWraps pc x.toInt
  rw [sextN_toNat hn, hsum]
  rfl

/-! ## A text that fits -/

/-- A report whose text fits the capacity shows the text whole (42_renderer R170). -/
theorem shows_text_of_fits {o : Host.Outcome State Fault Refusal} {s : State} {idx : Nat} {shape : Shape}
    {quirks : Quirks} {mnemonic : Option Text} {rec : Record} {full text : Text}
    (h : o = .next (s.showing idx shape quirks mnemonic rec full)) (hfull : full = text)
    (hfits : text.length ≤ s.consts.cap) : ∃ t, o = .next t ∧ t.out.text = text := by
  subst hfull
  exact ⟨_, h, List.take_of_length_le hfits⟩

end Sys2Proof.Machine
end

section
/-!
PROOFS. The statements on the rows that the source shows (spec/43_table_rows.md R180 to R184) and on its worked examples
(spec/95_test_vectors.md section 1).
-/
namespace Sys2Proof.Machine

/-- Settles O15: the meaning prints the sign-extended field, which is the field's two's complement value. -/
theorem lwShowsMemoryOperand : Obligations.LwShowsMemoryOperand := by
  refine ⟨fun idx q o sel i rj rd s => ?_, fun _ q _ _ _ _ _ => q.fitsLw_iff⟩
  refine next_report_eq_showing ?_ s ⟨idx, txt "lw", q⟩ _ _
  rw [sextN_toNat (by decide)]

/-- Settles O16: the meaning prints the target of the sign-extended field. -/
theorem jShowsTarget : Obligations.JShowsTarget := by
  refine ⟨fun idx q o i b s => ?_, fun _ q _ _ _ => q.fitsJ_iff⟩
  refine next_report_eq_showing ?_ s ⟨idx, txt "j", q⟩ _ _
  rw [← jumpTarget_sextN (by decide), jumpTarget]

/-- Settles O14: the meaning reports this text, and one of the checks of a candidate asks for such a row. -/
theorem addShowsGeneralRegisters : Obligations.AddShowsGeneralRegisters := by
  refine ⟨fun idx q _ _ _ _ _ s => next_report_eq_showing rfl s ⟨idx, txt "add", q⟩ _ _,
    fun _ q _ _ _ _ _ => q.fitsAdd_iff, fun t ht => ?_⟩
  obtain ⟨-, hadd, -⟩ := (candidateTable_iff t).1 ht
  obtain ⟨r, hr, hmnemonic, hshape, hquirks, hword⟩ := (hasAddRow_iff t).1 hadd
  obtain ⟨hd, hj, hk⟩ := r.quirks.fitsAdd_iff.1 hquirks
  exact ⟨r, hr, hmnemonic, hshape, hd, hj, hk, hword⟩

/-- Settles O17: the meaning reports this text. -/
theorem slliwShowsBiasedAmount : Obligations.SlliwShowsBiasedAmount :=
  ⟨fun idx q _ _ _ _ _ s => next_report_eq_showing rfl s ⟨idx, txt "slliw", q⟩ _ _,
    fun _ q _ _ _ _ _ => q.fitsSlliw_iff⟩

/-- Settles O18: the meaning reports this text, and an admitted table ends with the sentinel. -/
theorem sentinelShowsRawWord : Obligations.SentinelShowsRawWord :=
  ⟨fun idx _ s => next_report_eq_showing rfl s ⟨idx, [], Quirks.none⟩ _ _,
    fun _ h => ⟨Row.sentinel, getElem?_nRows h, rfl, rfl, rfl, rfl, rfl, sentinel_recognises⟩⟩

/-- Settles O59: what each row shows in every state, with the pinned register names and the numbers evaluated. -/
theorem sourceExamplesHold : Obligations.SourceExamplesHold := by
  intro s hnames hcap hpc
  obtain ⟨-, hpinned⟩ := registerNamesFromTables
  obtain ⟨hzero, hra, hr2, hsp, ha0⟩ := hpinned s.consts hnames
  have hfits {text : Text} (h : text.length ≤ 16) : text.length ≤ s.consts.cap := h.trans hcap
  refine ⟨shows_text_of_fits (addShowsGeneralRegisters.1 ..) ?_ (hfits (by decide)),
    shows_text_of_fits (lwShowsMemoryOperand.1 ..) ?_ (hfits (by decide)),
    shows_text_of_fits (jShowsTarget.1 ..) ?_ (hfits (by decide)),
    shows_text_of_fits (slliwShowsBiasedAmount.1 ..) ?_ (hfits (by decide)),
    shows_text_of_fits (sentinelShowsRawWord.1 ..) ?_ (hfits (by decide))⟩
  · rw [hzero, hra, hr2]
    decide
  · rw [ha0, hsp]
    decide
  · rw [hpc]
    decide
  · rw [ha0, hsp]
    decide
  · decide

end Sys2Proof.Machine
end

section
/-!
SUPPORT. What an evaluation shows for a word that only the sentinel recognises (spec/60_exceptions.md R192) and for any
word at all (R194).
-/
namespace Sys2Proof

/-- MATCH gives the sentinel for a word that no row before it recognises (40_matcher R107). -/
theorem matchWord_of_unrecognised {c : Constants} {w : Word} (h : tableAdmitted c.itable = true)
    (hnone : ∀ k r, k < c.nRows → c.itable[k]? = some r → r.recognises w = false) :
    matchWord c.itable w = some (c.nRows, Row.sentinel) :=
  matchWord_eq_some_iff.2 ⟨getElem?_nRows h, sentinel_recognises w, hnone⟩

end Sys2Proof

namespace Sys2Proof.Machine

/-- A step with four bytes on the ports shows a text that is not empty (42_renderer R171). -/
theorem text_ne_nil_of_step {s t : State} (h : step s = .next t) (hl : 4 ≤ s.inp.inLen) : t.out.text ≠ [] := by
  obtain ⟨ha, -⟩ := step_eq_next_iff.1 h
  obtain ⟨-, hn, -⟩ := (Constants.admitted_iff _).1 ha
  rcases step_reports h with ⟨hshort, -⟩ | ⟨-, idx, row, hm, rfl⟩
  · omega
  · exact (oneWord_decoded ha hm (render_ne_nil hn _ _ _)).textNonempty

end Sys2Proof.Machine
end

section
/-!
PROOFS. The statements on the outcomes of an evaluation that are no error (spec/60_exceptions.md): too few bytes, a word
no row recognises, and that no evaluation fails.
-/
namespace Sys2Proof.Machine

/-- Settles O42: the length check comes first, and reports insufficient input. -/
theorem insufficientInput : Obligations.InsufficientInput :=
  fun _ ha hl => step_of_short ha hl

/-- Settles O43: MATCH gives the sentinel, whose record and text are the raw word. -/
theorem unrecognisedWordIsShownRaw : Obligations.UnrecognisedWordIsShownRaw := by
  intro s w ha hl hw hnone
  obtain ⟨ht, -, -⟩ := (Constants.admitted_iff _).1 ha
  subst hw
  have hm : matchWord s.consts.itable s.inp.word = some (s.consts.nRows, Row.sentinel) :=
    matchWord_of_unrecognised ht hnone
  rw [step_of_match ha hl hm]
  exact next_report_eq_showing rfl s (Row.sentinel.ref s.consts.nRows) none (.unknown s.inp.word)

/-- Settles O45: an admitted table makes MATCH total, a step is an evaluation, and a decoded text is never empty. -/
theorem evaluationNeverFails : Obligations.EvaluationNeverFails := by
  intro s ha
  obtain ⟨ht, -, -⟩ := (Constants.admitted_iff _).1 ha
  refine ⟨fun w => ?_, ?_⟩
  · obtain ⟨idx, row, hm⟩ := matchWord_of_tableAdmitted ht w
    simp [hm]
  · obtain ⟨o, -, hs⟩ := stepIsEvaluation s ha
    exact ⟨_, hs, text_ne_nil_of_step hs, retryingChangesNothing _ _ hs⟩

end Sys2Proof.Machine
end

section
/-!
SUPPORT. Reading a word written as a number, under the table of the spec's vectors (spec/95_test_vectors.md section 2).
-/
namespace Sys2Proof.Machine

/-- A number that is the encoded word of a well-formed instruction placed in the table of the vectors is read as that
instruction (41_field_decoder R138). -/
theorem decodeTableWord_of_encode {i : Instr} {w : Nat} (hwf : i.wf = true)
    (hplaced : i.placedIn Config.tvTable = true) (hw : (encode i).toNat = w) : decodeTableWord 32 w = some i := by
  have hword : BitVec.ofNat 32 (w % 2 ^ 32) = encode i := by
    rw [← hw, Nat.mod_eq_of_lt (encode i).isLt, BitVec.ofNat_toNat, BitVec.setWidth_eq]
  have hdecode : decode Config.tvTable (wordBytes (encode i)) = .ok i := decodeOfEncode Config.tvTable i [] hwf hplaced
  rw [decodeTableWord, hword, hdecode]

end Sys2Proof.Machine
end

section
/-!
PROOFS. The statement on the words of the spec's vectors (spec/95_test_vectors.md sections 3.1, 3.2).
-/
namespace Sys2Proof.Machine

/-- Settles O40: each word is the encoding of its instruction, which is well-formed and whose row is the first of the
table to recognise the word. -/
theorem knownWordsDecode : Obligations.KnownWordsDecode := by
  refine ⟨?_, ?_, ?_, ?_, ?_, ?_, ?_⟩ <;>
    exact decodeTableWord_of_encode (by decide) (by decide) (by decide)

end Sys2Proof.Machine
end
